-- ==== Sys2Proof/Word.lean ====
section
/-! DEFINITION. The plain data the whole model speaks about: bytes, bus ids, the words of the four input formats (R80), the
decoded engine events (R82), the two kinds of answer a step gives to the outside (R88, R200), and the names of the reserved
words (R83, R85, R87, R91). -/

namespace Sys2Proof

/-- A byte: every data value of the block is 8 unsigned bits (R10). -/
abbrev Byte := BitVec 8

/-- A snapshot of a register image: five bytes, byte 0 first (R21, R62, R150). -/
abbrev Image := Vector Byte 5

/-- The two emulated buses, ids 0 and 1 (R7 `NBUS`, R20). -/
inductive BusId where
  | b0
  | b1
deriving DecidableEq, Repr

/-- The other bus. -/
def BusId.other : BusId → BusId
  | .b0 => .b1
  | .b1 => .b0

/-- A word on the port it arrives on (R80). The port is part of the word's identity: EV and CMD words have the same width and
overlapping values. W and EV words carry no bus field, so their port names the bus. -/
inductive PortWord where
  | ev   (b : BusId) (w : BitVec 16)
  | wire (b : BusId) (w : BitVec 10)
  | cmd  (w : BitVec 16)
  | sq   (w : BitVec 8)
deriving DecidableEq, Repr

/-- The four formats (R80). -/
inductive Format where
  | ev
  | w
  | cmd
  | sq
deriving DecidableEq, Repr

/-- One choice of the environment: the next word driven on a wire, sent on the host command port or picked by the scheduler
(R6, R237). EV words are not among them: only the front end produces those (R80, R93). -/
inductive Pick where
  | wire (b : BusId) (w : BitVec 10)
  | cmd  (w : BitVec 16)
  | sq   (w : BitVec 8)
deriving DecidableEq, Repr

/-- The reserved words of the four formats; each is refused by name. -/
inductive Reserved where
  /-- a reserved EV word (R83, R121) -/
  | evWord
  /-- a reserved W symbol (R85) -/
  | wireSymbol
  /-- a reserved CMD word (R87) -/
  | cmdWord
  /-- a reserved SQ word (R91) -/
  | sqWord
deriving DecidableEq, Repr

/-- The engine events an EV word stands for (R82), with their data. -/
inductive Event where
  | addrR  (addr7 : BitVec 7)
  | addrW  (addr7 : BitVec 7)
  | txLow  (room : Byte)
  | rxByte (v : Byte)
  | stop
  | errArb
  | errNack
  | errTimeout
  | errOvf
deriving DecidableEq, Repr

/-- The result of a host command (R88). -/
inductive CmdResult where
  | ok
  | busUnavailable
  | busy
  | invalidMask
deriving DecidableEq, Repr

/-- What the master observes for one W symbol (R200: "Returns"): an acknowledge bit for START and WRITE, a byte for READ,
nothing for STOP. -/
inductive WireObs where
  | ack
  | nack
  | byte (v : Byte)
  | nothing
deriving DecidableEq, Repr

end Sys2Proof
end

