-- ==== Sys2Proof/Config.lean ====
section
/-! DEFINITION. The implementation parameters (R7, R8), what makes a set of them admitted (R7, R9), and the values nothing in
the spec fixes: the parameters an implementation supplies, its address-dependent image variant (R151), and the bytes that are
drawn (R10 `draw`). The last three are opaque constants without a body, so no proof can learn anything about them. -/

namespace Sys2Proof

/-- `FLAG_IDX[b]`: the image byte that a control mask is applied to, 1 or 2 (R7). -/
inductive FlagIdx where
  | byte1
  | byte2
deriving DecidableEq, Repr, Inhabited

/-- `VARIANT[b]`: the identity by default, or any other total function from 5 bytes to 5 bytes (R7, R151). That function
cannot be plain data: it is the opaque `Config.variantOf` (DESIGN CHOICE, log entry 10, safe). -/
inductive Variant where
  | identity
  | addressDependent
deriving DecidableEq, Repr, Inhabited

/-- The per-bus parameters of R7. A field's default is the one R7 gives; where R7 says OPEN it is configuration E's (file 95,
bus 0), which only shows that the type has an element. -/
structure BusParams where
  /-- `DEFINED[b]`: the mask bits that are defined -/
  defined : Byte := 0x0F#8
  flagIdx : FlagIdx := .byte1
  k3 : Byte := 0#8
  k4 : Byte := 0#8
  variant : Variant := .identity
  attnEn : Bool := true
  attnRelEn : Bool := false
  /-- `ATTN_ACTIVE_LEVEL[b]`: level 1 is `true` -/
  attnActiveLevel : Bool := false
deriving DecidableEq, Repr, Inhabited

/-- All parameters of R7, before the constraints. `TICK_MS` and `T_POLL_MIN` are positive durations of no stated type: they are
held as whole numbers of one time unit, `unitsPerMs` of which make a millisecond (DESIGN CHOICE, log entry 9,
safe). -/
structure RawParams where
  txDepth : Nat := 4
  txLowThresh : Nat := 1
  rxDepth : Nat := 2
  wbufLen : Nat := 3
  stretch : Bool := false
  bus0 : BusParams := {}
  bus1 : BusParams := {}
  tAssert : Nat := 2
  tHold : Nat := 3
  /-- `T_RASSERT`: `T_ASSERT` unless configured otherwise (R7, D37) -/
  tRassert : Nat := tAssert
  /-- `T_RHOLD`: `T_HOLD` unless configured otherwise (R7, D37) -/
  tRhold : Nat := tHold
  unitsPerMs : Nat := 1
  /-- `TICK_MS`, in time units -/
  tickTime : Nat := 20
  /-- `T_POLL_MIN`, in time units -/
  pollMin : Nat := 50
  /-- `T_GUARD`: read by no rule (R7, D24). R7 leaves it OPEN and file 95 gives configuration E none: the default 0, which
  `Config.vectorE` keeps, is the model's (DESIGN CHOICE, log entry 16, safe) -/
  tGuard : Nat := 0
deriving DecidableEq, Repr, Inhabited

/-- The constraints of R7 on sizes and single durations. -/
abbrev RawParams.sizesLegal (r : RawParams) : Prop :=
  1 ≤ r.txDepth ∧ r.txDepth ≤ 255 ∧ r.txLowThresh < min 5 r.txDepth ∧ 1 ≤ r.rxDepth ∧
  1 ≤ r.tAssert ∧ 1 ≤ r.tRassert ∧ 1 ≤ r.tRhold ∧ 1 ≤ r.unitsPerMs ∧ 1 ≤ r.tickTime ∧ 1 ≤ r.pollMin

/-- The two timing constraints of R9. -/
abbrev RawParams.timingLegal (r : RawParams) : Prop :=
  r.tAssert < r.tHold ∧ r.pollMin < (r.tAssert + r.tHold) * r.tickTime

/-- An admitted configuration: a set of parameters together with the proof that it meets R7 and R9. A configuration that
breaks a constraint cannot be built, so no run of it has a meaning (R9). -/
structure Params where
  raw : RawParams := {}
  sizes : raw.sizesLegal := by decide
  timing : raw.timingLegal := by decide
deriving DecidableEq, Repr, Inhabited

/-- Configuration E of file 95, under which the spec's test vectors are stated. Its `T_GUARD`, which file 95 does not list, is
the model's 0 (DESIGN CHOICE, log entry 16, safe). -/
def Config.vectorE : Params :=
  { raw := { bus1 := { defined := 0x3F#8, attnRelEn := true } } }

/-- The parameters the implementation supplies (R7, R265): any admitted configuration, and nothing in Lean says which
(DESIGN CHOICE, log entry 7, safe). -/
opaque Config.params : Params

/-- The address-dependent variant of bus `b`'s image, where it is not the identity (R151). It reads no state but the image. -/
opaque Config.variantOf : BusId → Image → Image

/-- `draw(byte)` (R10): the `n`-th drawn byte on bus `b`, under no law (DESIGN CHOICE, log entry 4, safe). -/
opaque Config.drawnByte : BusId → Nat → Byte

end Sys2Proof
end

