-- ==== Sys2Proof/Syntax.lean ====
section
/-! DEFINITION. The instruction set: one constructor per row of spec/opcode_table.json (R2: the "instructions" are the discrete
inputs the block reacts to). EV and W words carry no bus field, so the bus of their port is an operand here (R80;
DEDUCED, log entry 12, safe). -/

namespace Sys2Proof

/-- The inputs of the block. The docstring of a constructor names its row and the rule that gives its meaning. -/
inductive Instr where
  /-- EV.ADDR_R: address match, master reads (R112) -/
  | evAddrR (b : BusId) (addr7 : BitVec 7)
  /-- EV.ADDR_W: address match, master writes (R113) -/
  | evAddrW (b : BusId) (addr7 : BitVec 7)
  /-- EV.TX_LOW: output buffer low (R114); `room` is the free space when it was raised -/
  | evTxLow (b : BusId) (room : Byte)
  /-- EV.RX_BYTE: byte received (R115) -/
  | evRxByte (b : BusId) (v : Byte)
  /-- EV.STOP: transaction complete (R116) -/
  | evStop (b : BusId)
  /-- EV.ERR_ARB: arbitration lost (R117) -/
  | evErrArb (b : BusId)
  /-- EV.ERR_NACK: the master did not acknowledge (R118) -/
  | evErrNack (b : BusId)
  /-- EV.ERR_TIMEOUT: bus timeout (R119) -/
  | evErrTimeout (b : BusId)
  /-- EV.ERR_OVF: receive overflow (R120) -/
  | evErrOvf (b : BusId)
  /-- W.START_R: START and an address byte, master reads (R201, R202) -/
  | wStartR (b : BusId) (addr7 : BitVec 7)
  /-- W.START_W: START and an address byte, master writes (R202, R203) -/
  | wStartW (b : BusId) (addr7 : BitVec 7)
  /-- W.WRITE: the master writes a data byte (R204, R205) -/
  | wWrite (b : BusId) (v : Byte)
  /-- W.READ: the master clocks a read byte, then acknowledges it or not (R206 to R209) -/
  | wRead (b : BusId) (nack : Bool)
  /-- W.STOP (R210) -/
  | wStop (b : BusId)
  /-- ACTIVATE: start a press (R171, R172); bus fields 2 to 15 are encodable -/
  | activate (bus : BitVec 4) (mask : Byte)
  /-- CFG: give the image its class (R154) -/
  | cfg (bus : BitVec 4) (cls : Byte)
  /-- START: set the own address and enable the engine (R263) -/
  | start (bus : BitVec 4) (addr7 : BitVec 7)
  /-- RESET: global reset (R260) -/
  | reset
  /-- TICK: one tick of time (R180) -/
  | tick (b : BusId)
  /-- STEP: one phase step of the sequencer (R173 to R179) -/
  | step (b : BusId)
  /-- ISR: one handler invocation of the dispatcher (R110) -/
  | isr (b : BusId)
  /-- X.ARB: the bus environment makes the peripheral lose arbitration (R212) -/
  | xArb (b : BusId)
  /-- X.TIMEOUT: the bus environment times out the transaction (R213) -/
  | xTimeout (b : BusId)
deriving DecidableEq, Repr

end Sys2Proof
end

