-- ==== Sys2Proof/WellFormed.lean ====
section
/-! DEFINITION. Which instructions have a word. Every operand's width is in its type, so one check is left: a TX_LOW event
never carries a free space of 0 (R82, R83). -/

namespace Sys2Proof

/-- An event that has an EV word: TX_LOW with data 0 is reserved (R83). -/
def Event.wellFormed : Event → Bool
  | .txLow n => decide (n ≠ 0#8)
  | .addrR _ => true
  | .addrW _ => true
  | .rxByte _ => true
  | .stop => true
  | .errArb => true
  | .errNack => true
  | .errTimeout => true
  | .errOvf => true

/-- An instruction that has a word (R82 to R91). -/
def WellFormed : Instr → Bool
  | .evTxLow _ n => decide (n ≠ 0#8)
  | .evAddrR _ _ => true
  | .evAddrW _ _ => true
  | .evRxByte _ _ => true
  | .evStop _ => true
  | .evErrArb _ => true
  | .evErrNack _ => true
  | .evErrTimeout _ => true
  | .evErrOvf _ => true
  | .wStartR _ _ => true
  | .wStartW _ _ => true
  | .wWrite _ _ => true
  | .wRead _ _ => true
  | .wStop _ => true
  | .activate _ _ => true
  | .cfg _ _ => true
  | .start _ _ => true
  | .reset => true
  | .tick _ => true
  | .step _ => true
  | .isr _ => true
  | .xArb _ => true
  | .xTimeout _ => true

end Sys2Proof
end

