-- ==== Sys2Proof/Decode.lean ====
section
/-! DEFINITION. The decoders of the four formats, total and rejecting by name (R80 to R91, R95), and after them the encoder
written from the same tables. -/

namespace Sys2Proof

/-! ### Ports, buses and events -/

/-- The bus id as the low bit of an SQ word's bus field (R90). -/
def BusId.bit : BusId → BitVec 1
  | .b0 => 0#1
  | .b1 => 1#1

/-- The bus with a given low bit (R90). -/
def BusId.ofBit (v : BitVec 1) : BusId := if v = 0#1 then .b0 else .b1

/-- The bus a 4-bit bus field names; values 2 to 15 name no bus (R86). -/
def BusId.ofField (v : BitVec 4) : Option BusId :=
  if v = 0#4 then some .b0 else if v = 1#4 then some .b1 else none

/-- The format of a port's words (R80: "The port a word arrives on tells its format"). -/
def PortWord.format : PortWord → Format
  | .ev _ _ => .ev
  | .wire _ _ => .w
  | .cmd _ => .cmd
  | .sq _ => .sq

/-- The bits of a word, widened with zeros to the widest format (R10 `zext`). -/
def PortWord.bits : PortWord → BitVec 16
  | .ev _ w => w
  | .wire _ w => w.setWidth 16
  | .cmd w => w
  | .sq w => w.setWidth 16

/-- The port word of a pick. -/
def Pick.word : Pick → PortWord
  | .wire b w => .wire b w
  | .cmd w => .cmd w
  | .sq w => .sq w

/-- The EV instruction that handles a decoded event on bus `b` (R82, R110). -/
def Event.instr (b : BusId) : Event → Instr
  | .addrR a => .evAddrR b a
  | .addrW a => .evAddrW b a
  | .txLow n => .evTxLow b n
  | .rxByte v => .evRxByte b v
  | .stop => .evStop b
  | .errArb => .evErrArb b
  | .errNack => .evErrNack b
  | .errTimeout => .evErrTimeout b
  | .errOvf => .evErrOvf b

/-! ### Decoding -/

/-- Decode an EV word: code in [15:12], zeros in [11:8], data in [7:0] (R81 to R83). -/
def decodeEvent (w : BitVec 16) : Except Reserved Event :=
  let code := w.extractLsb' 12 4
  let z := w.extractLsb' 8 4
  let data := w.extractLsb' 0 8
  if z ≠ 0#4 then .error .evWord
  else if code = 0x1#4 then
    if data.extractLsb' 0 1 = 1#1 then .ok (.addrR (data.extractLsb' 1 7))
    else .ok (.addrW (data.extractLsb' 1 7))
  else if code = 0x2#4 then
    if data = 0#8 then .error .evWord else .ok (.txLow data)
  else if code = 0x3#4 then .ok (.rxByte data)
  else if data ≠ 0#8 then .error .evWord
  else if code = 0x4#4 then .ok .stop
  else if code = 0x8#4 then .ok .errArb
  else if code = 0x9#4 then .ok .errNack
  else if code = 0xA#4 then .ok .errTimeout
  else if code = 0xB#4 then .ok .errOvf
  else .error .evWord

/-- Decode an entry of bus `b`'s event queue as an instruction (R82). -/
def decodeEv (b : BusId) (w : BitVec 16) : Except Reserved Instr :=
  match decodeEvent w with
  | .ok e => .ok (e.instr b)
  | .error r => .error r

/-- Decode a W symbol on the wire of bus `b`: kind in [9:8], byte in [7:0] (R84, R85). -/
def decodeWire (b : BusId) (w : BitVec 10) : Except Reserved Instr :=
  let k := w.extractLsb' 8 2
  let d := w.extractLsb' 0 8
  if k = 0b00#2 then
    if d.extractLsb' 0 1 = 1#1 then .ok (.wStartR b (d.extractLsb' 1 7))
    else .ok (.wStartW b (d.extractLsb' 1 7))
  else if k = 0b01#2 then .ok (.wWrite b d)
  else if k = 0b10#2 then
    if d.extractLsb' 1 7 = 0#7 then .ok (.wRead b (decide (d.extractLsb' 0 1 = 1#1)))
    else .error .wireSymbol
  else if d = 0#8 then .ok (.wStop b)
  else .error .wireSymbol

/-- Decode a CMD word: op in [15:12], bus in [11:8], payload in [7:0] (R86, R87). A START payload with bit 7 set and a RESET
with any other bit set are reserved (R87, C17). -/
def decodeCmd (w : BitVec 16) : Except Reserved Instr :=
  let op := w.extractLsb' 12 4
  let bus := w.extractLsb' 8 4
  let p := w.extractLsb' 0 8
  if op = 0x1#4 then .ok (.activate bus p)
  else if op = 0x2#4 then .ok (.cfg bus p)
  else if op = 0x3#4 then
    if p.extractLsb' 7 1 = 0#1 then .ok (.start bus (p.extractLsb' 0 7)) else .error .cmdWord
  else if op = 0xF#4 then
    if bus = 0#4 ∧ p = 0#8 then .ok .reset else .error .cmdWord
  else .error .cmdWord

/-- Decode an SQ word: op in [7:4], bus in [3:0], where only buses 0 and 1 are not reserved (R90, R91). -/
def decodeSq (w : BitVec 8) : Except Reserved Instr :=
  let op := w.extractLsb' 4 4
  let b := BusId.ofBit (w.extractLsb' 0 1)
  if w.extractLsb' 1 3 ≠ 0#3 then .error .sqWord
  else if op = 0x1#4 then .ok (.tick b)
  else if op = 0x2#4 then .ok (.step b)
  else if op = 0x3#4 then .ok (.isr b)
  else if op = 0x4#4 then .ok (.xArb b)
  else if op = 0x5#4 then .ok (.xTimeout b)
  else .error .sqWord

/-- Decode a word by the port it arrives on: the port tells its format (R80). -/
def decode : PortWord → Except Reserved Instr
  | .ev b w => decodeEv b w
  | .wire b w => decodeWire b w
  | .cmd w => decodeCmd w
  | .sq w => decodeSq w

/-! ### Encoding -/

/-- The EV layout: `code`, four zero bits, `data` (R81). -/
def evWord (code : BitVec 4) (data : Byte) : BitVec 16 := code ++ (0#4 ++ data)

/-- The address byte of a START: the 7-bit address above the direction bit, 1 = the master reads (R85). -/
def addressByte (addr7 : BitVec 7) (dirBit : BitVec 1) : Byte := addr7 ++ dirBit

/-- The W layout: kind above the byte (R84). -/
def wireWord (k : BitVec 2) (d : Byte) : BitVec 10 := k ++ d

/-- The CMD layout: op, bus, payload (R86). -/
def cmdWord (op bus : BitVec 4) (p : Byte) : BitVec 16 := op ++ (bus ++ p)

/-- The SQ layout for a bus that exists: op, three zero bits, the bus bit (R90). -/
def sqWord (op : BitVec 4) (b : BusId) : BitVec 8 := op ++ (0#3 ++ b.bit)

/-- The EV word of an event (R82). -/
def encodeEvent : Event → BitVec 16
  | .addrR a => evWord 0x1#4 (addressByte a 1#1)
  | .addrW a => evWord 0x1#4 (addressByte a 0#1)
  | .txLow n => evWord 0x2#4 n
  | .rxByte v => evWord 0x3#4 v
  | .stop => evWord 0x4#4 0#8
  | .errArb => evWord 0x8#4 0#8
  | .errNack => evWord 0x9#4 0#8
  | .errTimeout => evWord 0xA#4 0#8
  | .errOvf => evWord 0xB#4 0#8

/-- The word of an instruction, on its port (R82, R84, R87, R90). -/
def encode : Instr → PortWord
  | .evAddrR b a => .ev b (evWord 0x1#4 (addressByte a 1#1))
  | .evAddrW b a => .ev b (evWord 0x1#4 (addressByte a 0#1))
  | .evTxLow b n => .ev b (evWord 0x2#4 n)
  | .evRxByte b v => .ev b (evWord 0x3#4 v)
  | .evStop b => .ev b (evWord 0x4#4 0#8)
  | .evErrArb b => .ev b (evWord 0x8#4 0#8)
  | .evErrNack b => .ev b (evWord 0x9#4 0#8)
  | .evErrTimeout b => .ev b (evWord 0xA#4 0#8)
  | .evErrOvf b => .ev b (evWord 0xB#4 0#8)
  | .wStartR b a => .wire b (wireWord 0b00#2 (addressByte a 1#1))
  | .wStartW b a => .wire b (wireWord 0b00#2 (addressByte a 0#1))
  | .wWrite b v => .wire b (wireWord 0b01#2 v)
  | .wRead b nack => .wire b (wireWord 0b10#2 (0#7 ++ BitVec.ofBool nack))
  | .wStop b => .wire b (wireWord 0b11#2 0#8)
  | .activate bus m => .cmd (cmdWord 0x1#4 bus m)
  | .cfg bus c => .cmd (cmdWord 0x2#4 bus c)
  | .start bus a => .cmd (cmdWord 0x3#4 bus (0#1 ++ a))
  | .reset => .cmd (cmdWord 0xF#4 0#4 0#8)
  | .tick b => .sq (sqWord 0x1#4 b)
  | .step b => .sq (sqWord 0x2#4 b)
  | .isr b => .sq (sqWord 0x3#4 b)
  | .xArb b => .sq (sqWord 0x4#4 b)
  | .xTimeout b => .sq (sqWord 0x5#4 b)

/-! ### The opcode table -/

/-- A row of the opcode table: a word of the format belongs to it when its bits under `mask` are `pattern` and, where
`nonzero` is not 0, some bit under `nonzero` is 1 (TX_LOW alone, R83). -/
structure Row where
  mnemonic : String
  format : Format
  pattern : BitVec 16
  mask : BitVec 16
  nonzero : BitVec 16 := 0#16
deriving DecidableEq, Repr

/-- Whether a word belongs to a row (R82, R84, R87, R90). -/
def Row.holds (r : Row) (p : PortWord) : Bool :=
  decide (p.format = r.format) && decide (p.bits &&& r.mask = r.pattern) &&
  (decide (r.nonzero = 0#16) || decide (p.bits &&& r.nonzero ≠ 0#16))

/-- The row of an instruction: spec/opcode_table.json, line by line. -/
def rowOf : Instr → Row
  | .evAddrR _ _ => { mnemonic := "EV.ADDR_R", format := .ev, pattern := 0x1001#16, mask := 0xFF01#16 }
  | .evAddrW _ _ => { mnemonic := "EV.ADDR_W", format := .ev, pattern := 0x1000#16, mask := 0xFF01#16 }
  | .evTxLow _ _ => { mnemonic := "EV.TX_LOW", format := .ev, pattern := 0x2000#16, mask := 0xFF00#16, nonzero := 0x00FF#16 }
  | .evRxByte _ _ => { mnemonic := "EV.RX_BYTE", format := .ev, pattern := 0x3000#16, mask := 0xFF00#16 }
  | .evStop _ => { mnemonic := "EV.STOP", format := .ev, pattern := 0x4000#16, mask := 0xFFFF#16 }
  | .evErrArb _ => { mnemonic := "EV.ERR_ARB", format := .ev, pattern := 0x8000#16, mask := 0xFFFF#16 }
  | .evErrNack _ => { mnemonic := "EV.ERR_NACK", format := .ev, pattern := 0x9000#16, mask := 0xFFFF#16 }
  | .evErrTimeout _ => { mnemonic := "EV.ERR_TIMEOUT", format := .ev, pattern := 0xA000#16, mask := 0xFFFF#16 }
  | .evErrOvf _ => { mnemonic := "EV.ERR_OVF", format := .ev, pattern := 0xB000#16, mask := 0xFFFF#16 }
  | .wStartR _ _ => { mnemonic := "W.START_R", format := .w, pattern := 0x0001#16, mask := 0x0301#16 }
  | .wStartW _ _ => { mnemonic := "W.START_W", format := .w, pattern := 0x0000#16, mask := 0x0301#16 }
  | .wWrite _ _ => { mnemonic := "W.WRITE", format := .w, pattern := 0x0100#16, mask := 0x0300#16 }
  | .wRead _ _ => { mnemonic := "W.READ", format := .w, pattern := 0x0200#16, mask := 0x03FE#16 }
  | .wStop _ => { mnemonic := "W.STOP", format := .w, pattern := 0x0300#16, mask := 0x03FF#16 }
  | .activate _ _ => { mnemonic := "ACTIVATE", format := .cmd, pattern := 0x1000#16, mask := 0xF000#16 }
  | .cfg _ _ => { mnemonic := "CFG", format := .cmd, pattern := 0x2000#16, mask := 0xF000#16 }
  | .start _ _ => { mnemonic := "START", format := .cmd, pattern := 0x3000#16, mask := 0xF080#16 }
  | .reset => { mnemonic := "RESET", format := .cmd, pattern := 0xF000#16, mask := 0xFFFF#16 }
  | .tick _ => { mnemonic := "TICK", format := .sq, pattern := 0x0010#16, mask := 0x00FE#16 }
  | .step _ => { mnemonic := "STEP", format := .sq, pattern := 0x0020#16, mask := 0x00FE#16 }
  | .isr _ => { mnemonic := "ISR", format := .sq, pattern := 0x0030#16, mask := 0x00FE#16 }
  | .xArb _ => { mnemonic := "X.ARB", format := .sq, pattern := 0x0040#16, mask := 0x00FE#16 }
  | .xTimeout _ => { mnemonic := "X.TIMEOUT", format := .sq, pattern := 0x0050#16, mask := 0x00FE#16 }

/-- The rows of the opcode table, in its order. -/
def opcodeRows : List Row :=
  ([Instr.evAddrR .b0 0, .evAddrW .b0 0, .evTxLow .b0 1, .evRxByte .b0 0, .evStop .b0, .evErrArb .b0, .evErrNack .b0,
    .evErrTimeout .b0, .evErrOvf .b0, .wStartR .b0 0, .wStartW .b0 0, .wWrite .b0 0, .wRead .b0 false, .wStop .b0,
    .activate 0 0, .cfg 0 0, .start 0 0, .reset, .tick .b0, .step .b0, .isr .b0, .xArb .b0, .xTimeout .b0] : List Instr).map
    rowOf

/-! ### A word without its port -/

/-- The port on which a bare table word is read, where its width and value leave a choice: 8 bits is SQ, 10 bits is W; of 16
bits, a value below 0x400 is a W symbol (no EV or CMD row has code or op 0); an EV row is taken before a CMD row, and what
matches no EV row is a CMD word (log entry 8). Ports with a bus are those of bus 0. -/
def tablePort (nbits w : Nat) : Option PortWord :=
  if nbits = 8 then some (.sq (BitVec.ofNat 8 w))
  else if nbits = 10 then some (.wire .b0 (BitVec.ofNat 10 w))
  else if nbits = 16 then
    if w < 0x400 then some (.wire .b0 (BitVec.ofNat 10 w))
    else match decodeEvent (BitVec.ofNat 16 w) with
      | .ok _ => some (.ev .b0 (BitVec.ofNat 16 w))
      | .error _ => some (.cmd (BitVec.ofNat 16 w))
  else none

/-- The instruction the decoder reads from a bare table word (`tablePort` gives it its port). -/
def decodeTableWord (nbits w : Nat) : Option Instr :=
  match tablePort nbits w with
  | none => none
  | some p => match decode p with
    | .ok i => some i
    | .error _ => none

end Sys2Proof
end

