-- ==== Sys2Proof/Machine/Memory.lean ====
section
/-! DEFINITION. The byte-addressed spaces of the block: the image space and the write-reassembly space of each bus (R60), each a
list of cells in one canonical form. Every access is one byte (R64). -/

namespace Sys2Proof.Machine

/-- A byte-addressed space: the cells that differ from what an unlisted address reads as, by strictly rising address. -/
abbrev Memory := List Host.Cell

/-- What an unlisted address reads as. For the image it is the reset contents the spec gives (R21: 0x00); for the
write-reassembly buffer it is DESIGN CHOICE (R28 gives no value; log entry 1, unsafe). -/
def Memory.blank : Byte := 0x00#8

/-- Read one byte (R10 `MemRead`). -/
def Memory.read : Memory → Nat → Byte
  | [], _ => Memory.blank
  | (k, x) :: m, a => if a = k then x else Memory.read m a

/-- Write one byte (R10 `MemWrite`). Writing the value an unlisted address reads as removes the cell. -/
def Memory.write : Memory → Nat → Byte → Memory
  | [], a, v => if v = Memory.blank then [] else [(a, v)]
  | (k, x) :: m, a, v =>
    if a < k then
      if v = Memory.blank then (k, x) :: m else (a, v) :: (k, x) :: m
    else if a = k then
      if v = Memory.blank then m else (a, v) :: m
    else (k, x) :: Memory.write m a v

/-- Every listed address is at least `lo`, the addresses rise strictly, and no cell holds the unlisted value. -/
def Memory.risingFrom : Nat → Memory → Bool
  | _, [] => true
  | lo, (k, x) :: m => decide (lo ≤ k) && decide (x ≠ Memory.blank) && Memory.risingFrom (k + 1) m

/-- The canonical form: equal contents are equal lists. -/
def Memory.wf (m : Memory) : Bool := Memory.risingFrom 0 m

/-- Every listed address lies in a space of `n` bytes (R60: the image has 5, the write-reassembly buffer `WBUF_LEN`). -/
def Memory.within (n : Nat) (m : Memory) : Bool := m.all fun c => decide (c.1 < n)

end Sys2Proof.Machine
end

