-- ==== Sys2Proof/Machine/State.lean ====
section
/-! DEFINITION. The state: one record per bus (R20 to R38), the global REFUSED mark (R45), the configuration fixed for a run
(R7, R73), the environment's pending choices and the latest command result; then the reasons a step can stop, and reset. -/

namespace Sys2Proof.Machine

/-- `ENG_STATE[b]` (R25). The 2-bit code 3 is never written, and is no value here. -/
inductive EngState where
  | idle
  | addressed
  | transferring
deriving DecidableEq, Repr

/-- `DIR[b]` (R26). -/
inductive Dir where
  | none
  | read
  | write
deriving DecidableEq, Repr

/-- `FE_SEL[b]` (R32). -/
inductive FeSel where
  | none
  | read
  | write
deriving DecidableEq, Repr

/-- `PHASE[b]` (R34, R170). `set` is the phase SET, `assert` the phase ASSERT, and so on. -/
inductive Phase where
  | idle
  | set
  | assert
  | hold
  | cleared
  | rassert
  | rhold
deriving DecidableEq, Repr

/-- The state of one bus. Numbers in the comments are those of the register map (R42). -/
structure BusState where
  /-- `IMG[b]`, 5 bytes at indices 0 to 4 (0x00-0x04, R21) -/
  img : Memory
  /-- `CONFIGURED[b]` (0x05, R22) -/
  configured : Bool
  /-- `OWN_ADDR[b]` (0x06, R23) -/
  ownAddr : BitVec 7
  /-- `ENGINE_EN[b]` (0x07, R24) -/
  engineEn : Bool
  /-- `ENG_STATE[b]` (0x08, R25) -/
  engState : EngState
  /-- `DIR[b]` (0x09, R26) -/
  dir : Dir
  /-- `RP[b]`, the image index of the next byte to push (0x0A, R27) -/
  rp : Fin 5
  /-- `WIDX[b]`, 0 to `WBUF_LEN` (0x0B, R28) -/
  widx : Nat
  /-- `WBUF[b]`, `WBUF_LEN` bytes (0x0C, R28) -/
  wbuf : Memory
  /-- `TXF[b]`, head first (0x0D, R29) -/
  txf : List Byte
  /-- `RXF[b]`, head first (0x0E, R30) -/
  rxf : List Byte
  /-- `EVQ[b]`, head first (0x0F, R31) -/
  evq : List (BitVec 16)
  /-- `FE_SEL[b]` (0x10, R32) -/
  feSel : FeSel
  /-- `FE_ACTIVE[b]` (0x11, R33) -/
  feActive : Bool
  /-- `PHASE[b]` (0x12, R34) -/
  phase : Phase
  /-- `SEQ_MASK[b]` (0x13, R35) -/
  seqMask : Byte
  /-- `TIMER[b]`, a non-negative integer (0x14, R36) -/
  timer : Nat
  /-- `ATTN[b]`, asserted or not (0x15, R37) -/
  attn : Bool
  /-- `UNDERRUN[b]`, sticky (0x16, R38) -/
  underrun : Bool
  /-- The MODEL's own field: how many bytes have been drawn on this bus, the argument of the next free value (R10 `draw`;
  DESIGN CHOICE, log entry 4) -/
  draws : Nat
  /-- The MODEL's own field: what the master observed for the latest W symbol taken (R200 "Returns"); `none` before the first
  (DESIGN CHOICE, log entry 5) -/
  masterObs : Option WireObs
deriving DecidableEq, Repr

/-- The state of the block. -/
structure State where
  /-- the record of bus 0 (R20) -/
  bus0 : BusState
  /-- the record of bus 1 (R20) -/
  bus1 : BusState
  /-- `REFUSED`, global and sticky (0x17, R45) -/
  refused : Bool
  /-- the implementation parameters: plain data fixed for a run (R7, R73) -/
  params : Params
  /-- The MODEL's own field: the environment's pending choices, the next one first (R6, R237; log entry 2) -/
  schedule : List Pick
  /-- The MODEL's own field: the latest result returned on the host command port (R88); `none` before the first (DESIGN
  CHOICE, log entry 5) -/
  cmdResult : Option CmdResult
deriving DecidableEq, Repr

/-- Why the machine would stop with a fault. No step raises one: "the core never terminates the process on a hardware protocol
error" (R124, R232), and no behaviour of the block is stuck (file 93). -/
inductive Fault where
  /-- A code of a state field that is never written (file 93, row 18: "fault"; R25, R26, R32, R34). Raised only by the readers
  of register-map codes in Machine/RegisterMap.lean, never by `exec` or `step` (DEDUCED, log entry 11). `field` is the number of
  R42. Safe. -/
  | illegalFieldValue (field : Nat)
deriving DecidableEq, Repr

/-- Why the machine refuses to go on. -/
inductive Refusal where
  /-- An instruction without a meaning. No arm of `exec` answers it: every instruction has its meaning. Safe. -/
  | notModelled (mnemonic : String)
  /-- The run has REFUSED = 1, and "A run with `REFUSED = 1` has no meaning in the model" (R45). Raised by `step` alone, before
  it takes any further input (log entry 6). Safe. -/
  | runHasNoMeaning
deriving DecidableEq, Repr

/-- The outcome of one instruction or step. -/
abbrev StepOutcome := Host.Outcome State Fault Refusal

/-- The reset values of one bus's fields (R42, R260 to R262). `WBUF[b]` is unspecified after power-on; its bytes read 0x00 here
(DESIGN CHOICE, log entry 1, unsafe). -/
def BusState.reset : BusState where
  img := []
  configured := false
  ownAddr := 0x00#7
  engineEn := false
  engState := .idle
  dir := .none
  rp := 0
  widx := 0
  wbuf := []
  txf := []
  rxf := []
  evq := []
  feSel := .none
  feActive := false
  phase := .idle
  seqMask := 0x00#8
  timer := 0
  attn := false
  underrun := false
  draws := 0
  masterObs := none

/-- The machine right after power-on under the configuration `c` (R262). -/
def State.resetWith (c : Params) : State where
  bus0 := BusState.reset
  bus1 := BusState.reset
  refused := false
  params := c
  schedule := []
  cmdResult := none

/-- The machine right after power-on (R262), under the configuration the implementation supplies (R265). -/
def State.reset : State := State.resetWith Config.params

end Sys2Proof.Machine
end

