-- ==== Sys2Proof/Machine/Operands.lean ====
section
/-! DEFINITION. The operand forms: the record and the parameters of the bus an operand names, its flag byte, the class codes,
and the words the front end writes into the event queue. -/

namespace Sys2Proof

/-- The image index of the flag byte (R7). -/
def FlagIdx.index : FlagIdx → Nat
  | .byte1 => 1
  | .byte2 => 2

/-- The image index of the payload byte that is not the flag byte (R46 b). -/
def FlagIdx.otherIndex : FlagIdx → Nat
  | .byte1 => 2
  | .byte2 => 1

/-- The parameters of one bus; a model must not equate those of the two buses (R157). -/
def Params.bus (c : Params) : BusId → BusParams
  | .b0 => c.raw.bus0
  | .b1 => c.raw.bus1

end Sys2Proof

namespace Sys2Proof.Machine

/-- The record of bus `b` (R20). -/
def State.bus (s : State) : BusId → BusState
  | .b0 => s.bus0
  | .b1 => s.bus1

/-- The three classes an image can be given: keypress, slider position, secondary slider (R7, R92). -/
def classDefined (cls : Byte) : Bool := cls == 0x02#8 || cls == 0x03#8 || cls == 0x06#8

/-- The EV word of an address match, from the received address byte (R201, R203). -/
def evAddress (d : Byte) : BitVec 16 := evWord 0x1#4 d

/-- The EV word of TX_LOW with `room` bytes of free space (R207). -/
def evTxLowWord (room : Nat) : BitVec 16 := evWord 0x2#4 (BitVec.ofNat 8 room)

/-- The EV word of RX_BYTE (R204). -/
def evRxByteWord (v : Byte) : BitVec 16 := evWord 0x3#4 v

/-- EV.STOP (R210). -/
def evStopWord : BitVec 16 := 0x4000#16

/-- EV.ERR_ARB (R212). -/
def evErrArbWord : BitVec 16 := 0x8000#16

/-- EV.ERR_NACK (R208). -/
def evErrNackWord : BitVec 16 := 0x9000#16

/-- EV.ERR_TIMEOUT (R213). -/
def evErrTimeoutWord : BitVec 16 := 0xA000#16

/-- EV.ERR_OVF (R205). -/
def evErrOvfWord : BitVec 16 := 0xB000#16

end Sys2Proof.Machine
end

