-- ==== Sys2Proof/Machine/Flags.lean ====
section
/-! DEFINITION. The status bits that are computed from other state (R41): busy, the pending hardware error flags, whether a
timed phase is running, whether a step of an agent is enabled, and the level on the attention pin. -/

namespace Sys2Proof.Machine

/-- busy = (`PHASE[b] ≠ IDLE`): the sequencer lock (R34, R41). -/
def BusState.busy (x : BusState) : Bool := decide (x.phase ≠ .idle)

/-- The phases whose timer runs (R170, R180). -/
def Phase.timed : Phase → Bool
  | .assert => true
  | .hold => true
  | .rassert => true
  | .rhold => true
  | .idle => false
  | .set => false
  | .cleared => false

/-- STEP is enabled in SET and CLEARED, and in a timed phase once the timer has run out (R179). -/
def BusState.stepEnabled (x : BusState) : Bool :=
  match x.phase with
  | .idle => false
  | .set => true
  | .cleared => true
  | .assert => decide (x.timer = 0)
  | .hold => decide (x.timer = 0)
  | .rassert => decide (x.timer = 0)
  | .rhold => decide (x.timer = 0)

/-- ISR is enabled while an event is pending (R110). -/
def BusState.isrEnabled (x : BusState) : Bool := !x.evq.isEmpty

/-- `STRETCH_HOLD(b)`: no W symbol is enabled while the bus waits for the handler (R211). -/
def BusState.stretchHold (c : Params) (x : BusState) : Bool := !x.evq.isEmpty && c.raw.stretch

/-- X.ARB is enabled while the peripheral is selected for reading (R212). -/
def BusState.arbEnabled (x : BusState) : Bool := decide (x.feSel = .read)

/-- X.TIMEOUT is enabled while a matched transaction is open (R213). -/
def BusState.timeoutEnabled (x : BusState) : Bool := x.feActive

/-- A pending hardware error flag: an event word of that error is in the queue (R41, R235). -/
def BusState.errorPending (x : BusState) (w : BitVec 16) : Bool := x.evq.contains w

/-- The level on the attention pin: the active level exactly while the line is asserted (R37). -/
def BusState.attnPin (c : BusParams) (x : BusState) : Bool :=
  if x.attn then c.attnActiveLevel else !c.attnActiveLevel

/-- A quiescent bus: the five conditions of R274. -/
def BusState.quiescent (x : BusState) : Bool :=
  x.evq.isEmpty && decide (x.phase = .idle) && !x.feActive && decide (x.engState = .idle) && x.rxf.isEmpty

end Sys2Proof.Machine
end

