-- ==== Sys2Proof/Machine/Ops.lean ====
section
/-! DEFINITION. The shared operations: updates of a bus, the two answers to the outside, refusal, raising an event and entering
its handler (R110, R234 to R240), recovery from a hardware error (R117 to R120), and the image's snapshot, multiplexer and
read-modify-write (R65, R150 to R152). The block has no trap with a saved program counter (file 60): an exception here is an
event in the queue, and taking it is `takeEvent`. -/

namespace Sys2Proof.Machine

/-! ### Updates of the state -/

/-- Replace the record of bus `b`; the other record shares nothing with it (R20). -/
def State.setBus (s : State) (b : BusId) (x : BusState) : State :=
  match b with
  | .b0 => { s with bus0 := x }
  | .b1 => { s with bus1 := x }

/-- Update the record of bus `b`. -/
def State.onBus (s : State) (b : BusId) (f : BusState → BusState) : State := s.setBus b (f (s.bus b))

/-- A host command returns a result (R88, R231). -/
def State.reply (s : State) (r : CmdResult) : State := { s with cmdResult := some r }

/-- `refuse(...)`: the step is not taken and REFUSED is set (R10, R45; DEDUCED, log entry 6, safe). -/
def State.markRefused (s : State) : State := { s with refused := true }

/-- The environment makes a further choice, after those already pending (R6). -/
def State.offer (s : State) (p : Pick) : State := { s with schedule := s.schedule ++ [p] }

/-- The master observes the return of a W symbol (R200). -/
def BusState.observe (x : BusState) (o : WireObs) : BusState := { x with masterObs := some o }

/-! ### Events: raising one, entering its handler, recovering from an error -/

/-- Raise an event: its word is appended to the queue and is pending from then on (R200, R235). -/
def BusState.raise (x : BusState) (w : BitVec 16) : BusState := { x with evq := x.evq ++ [w] }

/-- Take the oldest pending event: removing it acknowledges its hardware flag, and nothing is saved (R110, R235, R239). -/
def BusState.takeEvent (x : BusState) : BusState := { x with evq := x.evq.tail }

/-- Return to (`IDLE`, `NONE`): the end of a transaction and the local recovery from every hardware error (R116 to R120). -/
def BusState.toIdle (x : BusState) : BusState := { x with engState := .idle, dir := .none }

/-- A transaction begins: the address has matched and the direction is known (R112, R113). -/
def BusState.toAddressed (d : Dir) (x : BusState) : BusState := { x with dir := d, engState := .addressed }

/-- Bytes are moving in the open transaction (R114, R115). -/
def BusState.toTransferring (x : BusState) : BusState := { x with engState := .transferring }

/-! ### The image -/

/-- `COPY(b)`: the five image bytes, read in one atomic step (R150). -/
def copyImage (m : Memory) : Image := #v[m.read 0, m.read 1, m.read 2, m.read 3, m.read 4]

/-- `SNAP(b)`: the bus's own image through the bus's variant (R151). -/
def snapshot (c : Params) (b : BusId) (x : BusState) : Image :=
  match (c.bus b).variant with
  | .identity => copyImage x.img
  | .addressDependent => Config.variantOf b (copyImage x.img)

/-- The `n` bytes of a snapshot from index `start` on, wrapping at 5 (R112, R114, R152). -/
def served (s : Image) (start n : Nat) : List Byte :=
  (List.range n).map fun i => s[(start + i) % 5]'(Nat.mod_lt _ (by decide))

/-- Push `n` bytes of the snapshot into the transmit FIFO from the read pointer on, and advance the pointer mod 5 (R114). -/
def BusState.push (x : BusState) (s : Image) (n : Nat) : BusState :=
  { x with
    txf := x.txf ++ served s x.rp.val n
    rp := ⟨(x.rp.val + n) % 5, Nat.mod_lt _ (by decide)⟩ }

/-- Set the mask's bits in the flag byte: one atomic OR (R65, R171). -/
def setFlagBits (i : Nat) (mask : Byte) (m : Memory) : Memory := m.write i (m.read i ||| mask)

/-- Clear the mask's bits in the flag byte: one atomic AND-NOT (R65, R175, C3). -/
def clearFlagBits (i : Nat) (mask : Byte) (m : Memory) : Memory := m.write i (m.read i &&& ~~~mask)

/-- Write all five image bytes in one atomic step (R64, R154). -/
def writeImage (v : Image) (m : Memory) : Memory :=
  ((((m.write 0 v[0]).write 1 v[1]).write 2 v[2]).write 3 v[3]).write 4 v[4]

/-! ### The receive FIFO and the write-reassembly buffer -/

/-- Drain the oldest byte of the receive FIFO, if it holds one (R115). -/
def BusState.drainRx (x : BusState) : BusState := { x with rxf := x.rxf.tail }

/-- Store a received byte at the write index; a full buffer drops it and the index saturates (R115, D15). -/
def BusState.storeRx (c : Params) (v : Byte) (x : BusState) : BusState :=
  if x.widx < c.raw.wbufLen then { x with wbuf := x.wbuf.write x.widx v, widx := x.widx + 1 } else x

/-! ### Drawn bytes -/

/-- The next drawn byte of bus `b` (R10 `draw`). -/
def nextDraw (b : BusId) (x : BusState) : Byte := Config.drawnByte b x.draws

/-- The same draw is never handed out twice. -/
def BusState.drawn (x : BusState) : BusState := { x with draws := x.draws + 1 }

end Sys2Proof.Machine
end

