-- ==== Sys2Proof/Machine/BusEngine.lean ====
section
/-! DEFINITION. The dispatcher of the Bus Peripheral Engine (file 40): the nine event rules and the ISR step that runs the rule
of the oldest pending event. An event rule is run on the state from which its event has been taken (R110). -/

namespace Sys2Proof.Machine

/-- R112: flush the transmit FIFO, then fill it at once from a snapshot, from image byte 0 on. -/
def onAddressRead (c : Params) (b : BusId) (x : BusState) : BusState :=
  (({ x with txf := [], rp := 0 } : BusState).push (snapshot c b x) (min 5 c.raw.txDepth)).toAddressed .read

/-- R113: reset the write index and get ready to collect bytes. -/
def onAddressWrite (x : BusState) : BusState := ({ x with widx := 0 } : BusState).toAddressed .write

/-- R114: inside a read transaction, refill all the space that is free now; otherwise skip (D14). -/
def onTxLow (c : Params) (b : BusId) (x : BusState) : BusState :=
  if x.dir = .read ∧ x.engState ≠ .idle then
    (x.push (snapshot c b x) (c.raw.txDepth - x.txf.length)).toTransferring
  else x

/-- R115: drain the byte; inside a write transaction also store it; otherwise it is discarded (D14). -/
def onRxByte (c : Params) (v : Byte) (x : BusState) : BusState :=
  if x.dir = .write ∧ x.engState ≠ .idle then
    (x.drainRx.storeRx c v).toTransferring
  else x.drainRx

/-- EV.ADDR_R (R112). -/
def execEvAddrR (b : BusId) (_addr7 : BitVec 7) (s : State) : StepOutcome :=
  .next (s.onBus b (onAddressRead s.params b))

/-- EV.ADDR_W (R113). -/
def execEvAddrW (b : BusId) (_addr7 : BitVec 7) (s : State) : StepOutcome :=
  .next (s.onBus b onAddressWrite)

/-- EV.TX_LOW (R114). The data is informational: the free space is computed anew. -/
def execEvTxLow (b : BusId) (_room : Byte) (s : State) : StepOutcome :=
  .next (s.onBus b (onTxLow s.params b))

/-- EV.RX_BYTE (R115). -/
def execEvRxByte (b : BusId) (v : Byte) (s : State) : StepOutcome :=
  .next (s.onBus b (onRxByte s.params v))

/-- EV.STOP (R116): the transaction is complete. -/
def execEvStop (b : BusId) (s : State) : StepOutcome :=
  .next (s.onBus b BusState.toIdle)

/-- EV.ERR_ARB (R117): arbitration lost, recovered locally. -/
def execEvErrArb (b : BusId) (s : State) : StepOutcome :=
  .next (s.onBus b BusState.toIdle)

/-- EV.ERR_NACK (R118). -/
def execEvErrNack (b : BusId) (s : State) : StepOutcome :=
  .next (s.onBus b BusState.toIdle)

/-- EV.ERR_TIMEOUT (R119). -/
def execEvErrTimeout (b : BusId) (s : State) : StepOutcome :=
  .next (s.onBus b BusState.toIdle)

/-- EV.ERR_OVF (R120). -/
def execEvErrOvf (b : BusId) (s : State) : StepOutcome :=
  .next (s.onBus b BusState.toIdle)

/-- The event rule that the dispatcher of bus `b` selects by the event's kind (R110, R239). -/
def handleEvent (b : BusId) (e : Event) (s : State) : StepOutcome :=
  match e with
  | .addrR a => execEvAddrR b a s
  | .addrW a => execEvAddrW b a s
  | .txLow n => execEvTxLow b n s
  | .rxByte v => execEvRxByte b v s
  | .stop => execEvStop b s
  | .errArb => execEvErrArb b s
  | .errNack => execEvErrNack b s
  | .errTimeout => execEvErrTimeout b s
  | .errOvf => execEvErrOvf b s

/-- ISR (R110): take the oldest pending event and run its rule. With no event pending the step is not taken (R91; DESIGN CHOICE,
log entry 3, safe). A reserved word at the head is refused: nothing is taken and REFUSED is set (R121). -/
def execIsr (b : BusId) (s : State) : StepOutcome :=
  match (s.bus b).evq with
  | [] => .next s
  | w :: _ =>
    match decodeEvent w with
    | .ok e => handleEvent b e (s.onBus b BusState.takeEvent)
    | .error _ => .next s.markRefused

end Sys2Proof.Machine
end

