-- ==== Sys2Proof/Machine/FrontEnd.lean ====
section
/-! DEFINITION. The peripheral front end of each bus (file 43): its reaction to the master's W symbols, and the errors the bus
environment injects. A W symbol held by clock stretching is not taken (R211); nor is an X step that is not enabled (R91). Such a
pick leaves the state as it is (DESIGN CHOICE, log entry 3, safe). -/

namespace Sys2Proof.Machine

/-- The address match: the engine is enabled and all 7 bits are equal (R85, R201). -/
def BusState.answers (x : BusState) (addr7 : BitVec 7) : Bool := x.engineEn && x.ownAddr == addr7

/-- R201 and R203 when the peripheral answers, R202 when it does not. `sel` is the selection a match makes. -/
def onStart (addr7 : BitVec 7) (dirBit : BitVec 1) (sel : FeSel) (x : BusState) : BusState :=
  if x.answers addr7 then
    ({ x with feSel := sel, feActive := true }.raise (evAddress (addressByte addr7 dirBit))).observe .ack
  else { x with feSel := .none }.observe .nack

/-- R204, and R205 when the receive FIFO is full: the byte is acknowledged and lost. -/
def onWrite (c : Params) (v : Byte) (x : BusState) : BusState :=
  if x.feSel = .write then
    if x.rxf.length < c.raw.rxDepth then
      ({ x with rxf := x.rxf ++ [v] }.raise (evRxByteWord v)).observe .ack
    else (x.raise evErrOvfWord).observe .ack
  else x.observe .nack

/-- The byte of a read slot while selected, and the FIFO after it; an empty FIFO is an underrun and the byte is drawn (R206). -/
def takeReadByte (b : BusId) (x : BusState) : Byte × BusState :=
  match x.txf with
  | v :: rest => (v, { x with txf := rest })
  | [] => (nextDraw b x, { x.drawn with underrun := true })

/-- R207: the pop that crosses down to the threshold raises TX_LOW once. `before` is the occupancy before the pop. -/
def raiseTxLow (c : Params) (before : Nat) (x : BusState) : BusState :=
  if before = c.raw.txLowThresh + 1 then x.raise (evTxLowWord (c.raw.txDepth - x.txf.length)) else x

/-- R208: the master's NACK raises ERR_NACK and ends the selection. -/
def raiseNack (nack : Bool) (x : BusState) : BusState :=
  if nack then { x.raise evErrNackWord with feSel := .none } else x

/-- R206 to R208 while selected for reading, R209 (a drawn byte, nothing else) while not. -/
def onRead (c : Params) (b : BusId) (nack : Bool) (x : BusState) : BusState :=
  if x.feSel = .read then
    let (v, y) := takeReadByte b x
    (raiseNack nack (raiseTxLow c x.txf.length y)).observe (.byte v)
  else x.drawn.observe (.byte (nextDraw b x))

/-- R210: a STOP raises EV.STOP exactly when it ends a transaction of this peripheral. -/
def onStop (x : BusState) : BusState :=
  if x.feActive then ({ x with feActive := false, feSel := .none }.raise evStopWord).observe .nothing
  else { x with feSel := .none }.observe .nothing

/-- A W symbol of bus `b`, taken only while the bus does not hold the master (R211; log entry 3). -/
def onWire (s : State) (b : BusId) (f : BusState → BusState) : State :=
  if (s.bus b).stretchHold s.params then s else s.onBus b f

/-- W.START_R (R201, R202). -/
def execWStartR (b : BusId) (addr7 : BitVec 7) (s : State) : StepOutcome :=
  .next (onWire s b (onStart addr7 1#1 .read))

/-- W.START_W (R202, R203). -/
def execWStartW (b : BusId) (addr7 : BitVec 7) (s : State) : StepOutcome :=
  .next (onWire s b (onStart addr7 0#1 .write))

/-- W.WRITE (R204, R205). -/
def execWWrite (b : BusId) (v : Byte) (s : State) : StepOutcome :=
  .next (onWire s b (onWrite s.params v))

/-- W.READ (R206 to R209). -/
def execWRead (b : BusId) (nack : Bool) (s : State) : StepOutcome :=
  .next (onWire s b (onRead s.params b nack))

/-- W.STOP (R210). -/
def execWStop (b : BusId) (s : State) : StepOutcome :=
  .next (onWire s b onStop)

/-- X.ARB (R212): enabled while selected for reading. -/
def execXArb (b : BusId) (s : State) : StepOutcome :=
  .next (if (s.bus b).arbEnabled then s.onBus b fun x => { x.raise evErrArbWord with feSel := .none } else s)

/-- X.TIMEOUT (R213): enabled while a matched transaction is open. -/
def execXTimeout (b : BusId) (s : State) : StepOutcome :=
  .next (if (s.bus b).timeoutEnabled then
    s.onBus b fun x => { x.raise evErrTimeoutWord with feSel := .none, feActive := false } else s)

end Sys2Proof.Machine
end

