-- ==== Sys2Proof/Machine/HostCommands.lean ====
section
/-! DEFINITION. The host commands: ACTIVATE (R171, R172), CFG (R154), START (R263) and RESET (R260). A command that returns an
error has changed nothing but the result it returns (R231). -/

namespace Sys2Proof.Machine

/-- A control mask is valid on a bus when it is not 0 and all its bits are defined (R172 check 4, C1). -/
def maskValid (defined mask : Byte) : Bool := mask != 0#8 && (mask &&& ~~~defined) == 0#8

/-- The acceptance checks of ACTIVATE, in their order (R172, R238): the bus of the press, or the first error. -/
def acceptActivate (s : State) (bus : BitVec 4) (mask : Byte) : Except CmdResult BusId :=
  match BusId.ofField bus with
  | none => .error .busUnavailable
  | some b =>
    if !(s.bus b).engineEn || !(s.bus b).configured then .error .busUnavailable
    else if (s.bus b).busy then .error .busy
    else if !maskValid (s.params.bus b).defined mask then .error .invalidMask
    else .ok b

/-- R171: set the mask's bits in the flag byte and latch the mask. -/
def beginPress (c : Params) (b : BusId) (mask : Byte) (x : BusState) : BusState :=
  { x with
    img := setFlagBits (c.bus b).flagIdx.index mask x.img
    seqMask := mask
    phase := .set }

/-- ACTIVATE (R171, R172). -/
def execActivate (bus : BitVec 4) (mask : Byte) (s : State) : StepOutcome :=
  match acceptActivate s bus mask with
  | .error r => .next (s.reply r)
  | .ok b => .next ((s.onBus b (beginPress s.params b mask)).reply .ok)

/-- The image CFG writes: the class, an empty payload, the bus's constants (R154). -/
def configuredImage (c : BusParams) (cls : Byte) : Image := #v[cls, 0x00#8, 0x00#8, c.k3, c.k4]

/-- R154: write the whole image and mark the bus configured. -/
def configureBus (c : Params) (b : BusId) (cls : Byte) (x : BusState) : BusState :=
  { x with img := writeImage (configuredImage (c.bus b) cls) x.img, configured := true }

/-- CFG (R154): BusUnavailable, then Busy, then refusal of an undefined class (R238). -/
def execCfg (bus : BitVec 4) (cls : Byte) (s : State) : StepOutcome :=
  match BusId.ofField bus with
  | none => .next (s.reply .busUnavailable)
  | some b =>
    if (s.bus b).busy then .next (s.reply .busy)
    else if !classDefined cls then .next s.markRefused
    else .next ((s.onBus b (configureBus s.params b cls)).reply .ok)

/-- R263: set the own address and enable the engine. -/
def startEngine (addr7 : BitVec 7) (x : BusState) : BusState := { x with ownAddr := addr7, engineEn := true }

/-- START (R263): BusUnavailable, then Busy (R238). -/
def execStart (bus : BitVec 4) (addr7 : BitVec 7) (s : State) : StepOutcome :=
  match BusId.ofField bus with
  | none => .next (s.reply .busUnavailable)
  | some b =>
    if (s.bus b).engineEn then .next (s.reply .busy)
    else .next ((s.onBus b (startEngine addr7)).reply .ok)

/-- R260 on one bus: every field returns to its reset value (the image to five zero bytes), but for `WBUF`, `UNDERRUN` and the
model's own two fields, which are kept (DESIGN CHOICE, log entries 4 and 5). -/
def resetBus (x : BusState) : BusState :=
  { BusState.reset with
    wbuf := x.wbuf
    underrun := x.underrun
    draws := x.draws
    masterObs := x.masterObs }

/-- RESET (R260): both buses in one atomic step; REFUSED is kept (R45). -/
def execReset (s : State) : StepOutcome :=
  .next (((s.onBus .b0 resetBus).onBus .b1 resetBus).reply .ok)

end Sys2Proof.Machine
end

