-- ==== Sys2Proof/Machine/Sequencer.lean ====
section
/-! DEFINITION. The Press Sequencer (file 42): STEP, one rule per phase (R173 to R179), and TICK (R180). -/

namespace Sys2Proof.Machine

/-- R173: from SET, assert the attention line if the bus uses it, and begin the assert hold. -/
def stepFromSet (c : Params) (b : BusId) (x : BusState) : BusState :=
  { x with attn := (c.bus b).attnEn, timer := c.raw.tAssert, phase := .assert }

/-- R174: from ASSERT, deassert the line and begin the release wait. -/
def stepFromAssert (c : Params) (x : BusState) : BusState :=
  { x with attn := false, timer := c.raw.tHold, phase := .hold }

/-- R175: from HOLD, clear the latched mask's bits. -/
def stepFromHold (c : Params) (b : BusId) (x : BusState) : BusState :=
  { x with img := clearFlagBits (c.bus b).flagIdx.index x.seqMask x.img, phase := .cleared }

/-- R176: from CLEARED, begin the release pulse if the bus uses one, or end the press. -/
def stepFromCleared (c : Params) (b : BusId) (x : BusState) : BusState :=
  if (c.bus b).attnRelEn then { x with attn := true, timer := c.raw.tRassert, phase := .rassert }
  else { x with phase := .idle }

/-- R177: from RASSERT, deassert the line and begin the final wait. -/
def stepFromRassert (c : Params) (x : BusState) : BusState :=
  { x with attn := false, timer := c.raw.tRhold, phase := .rhold }

/-- R178: from RHOLD, end the press. -/
def stepFromRhold (x : BusState) : BusState := { x with phase := .idle }

/-- The phase step of an enabled sequencer (R173 to R178); in IDLE there is none (R179). -/
def phaseStep (c : Params) (b : BusId) (x : BusState) : BusState :=
  match x.phase with
  | .idle => x
  | .set => stepFromSet c b x
  | .assert => stepFromAssert c x
  | .hold => stepFromHold c b x
  | .cleared => stepFromCleared c b x
  | .rassert => stepFromRassert c x
  | .rhold => stepFromRhold x

/-- STEP (R173 to R179). A STEP that is not enabled is not taken (R91, R179; DESIGN CHOICE, log entry 3, safe). -/
def execStep (b : BusId) (s : State) : StepOutcome :=
  .next (if (s.bus b).stepEnabled then s.onBus b (phaseStep s.params b) else s)

/-- R180: count one tick down in a timed phase; otherwise skip. -/
def tickDown (x : BusState) : BusState :=
  if x.phase.timed ∧ 0 < x.timer then { x with timer := x.timer - 1 } else x

/-- TICK (R180). -/
def execTick (b : BusId) (s : State) : StepOutcome :=
  .next (s.onBus b tickDown)

end Sys2Proof.Machine
end

