-- ==== Sys2Proof/Machine/Dispatch.lean ====
section
/-! DEFINITION. The dispatch of every instruction to its meaning, one arm per row of the opcode table. -/

namespace Sys2Proof.Machine

/-- The effect of one instruction, run as one atomic transition (R11). -/
def exec (i : Instr) (s : State) : Host.Outcome State Fault Refusal :=
  match i with
  | .evAddrR b addr7 => Sys2Proof.Machine.execEvAddrR b addr7 s
  | .evAddrW b addr7 => Sys2Proof.Machine.execEvAddrW b addr7 s
  | .evTxLow b room => Sys2Proof.Machine.execEvTxLow b room s
  | .evRxByte b v => Sys2Proof.Machine.execEvRxByte b v s
  | .evStop b => Sys2Proof.Machine.execEvStop b s
  | .evErrArb b => Sys2Proof.Machine.execEvErrArb b s
  | .evErrNack b => Sys2Proof.Machine.execEvErrNack b s
  | .evErrTimeout b => Sys2Proof.Machine.execEvErrTimeout b s
  | .evErrOvf b => Sys2Proof.Machine.execEvErrOvf b s
  | .wStartR b addr7 => Sys2Proof.Machine.execWStartR b addr7 s
  | .wStartW b addr7 => Sys2Proof.Machine.execWStartW b addr7 s
  | .wWrite b v => Sys2Proof.Machine.execWWrite b v s
  | .wRead b nack => Sys2Proof.Machine.execWRead b nack s
  | .wStop b => Sys2Proof.Machine.execWStop b s
  | .activate bus mask => Sys2Proof.Machine.execActivate bus mask s
  | .cfg bus cls => Sys2Proof.Machine.execCfg bus cls s
  | .start bus addr7 => Sys2Proof.Machine.execStart bus addr7 s
  | .reset => Sys2Proof.Machine.execReset s
  | .tick b => Sys2Proof.Machine.execTick b s
  | .step b => Sys2Proof.Machine.execStep b s
  | .isr b => Sys2Proof.Machine.execIsr b s
  | .xArb b => Sys2Proof.Machine.execXArb b s
  | .xTimeout b => Sys2Proof.Machine.execXTimeout b s

end Sys2Proof.Machine
end

