-- ==== Sys2Proof/Machine/Fetch.lean ====
section
/-! DEFINITION. Where the next input comes from: the block stores no program (R40, R73), so a step takes the environment's next
pick, off its port (R6, R80, R237). -/

namespace Sys2Proof.Machine

/-- What the next pick turns out to be, with the state from which the pick has been taken. -/
inductive Fetched where
  | nothing
  | instr (i : Instr) (s : State)
  | reserved (r : Reserved) (s : State)
deriving DecidableEq, Repr

/-- Take the next pick and decode its word by its port. -/
def fetch (s : State) : Fetched :=
  match s.schedule with
  | [] => .nothing
  | p :: rest =>
    match decode p.word with
    | .ok i => .instr i { s with schedule := rest }
    | .error r => .reserved r { s with schedule := rest }

/-- Make `p` the environment's next pick. -/
def State.pickNext (s : State) (p : Pick) : State := { s with schedule := p :: s.schedule }

/-- Make `w` the oldest pending event of bus `b` and the handler of that bus the next agent to step (R110). -/
def State.eventNext (s : State) (b : BusId) (w : BitVec 16) : State :=
  (s.onBus b fun x => { x with evq := w :: x.evq }).pickNext (.sq (sqWord 0x3#4 b))

/-- Place a word on its port so that the very next step runs it: an EV word as the oldest event with the handler picked, any
other word as the next pick. -/
def State.placeWord (s : State) : PortWord → State
  | .ev b w => s.eventNext b w
  | .wire b w => s.pickNext (.wire b w)
  | .cmd w => s.pickNext (.cmd w)
  | .sq w => s.pickNext (.sq w)

end Sys2Proof.Machine
end

