-- ==== Sys2Proof/Machine/Step.lean ====
section
/-! DEFINITION. One step of the machine, and the placing of a bare table word as its next input. -/

namespace Sys2Proof.Machine

/-- One step: the environment's next pick is taken as one atomic transition (R11). A reserved word sets REFUSED and does nothing
else (R10); a run with REFUSED = 1 has no meaning (R45); with no pick pending the block waits for its environment (DESIGN CHOICE,
log entry 2, safe). -/
def step (s : State) : Host.Outcome State Fault Refusal :=
  if s.refused then .refused .runHasNoMeaning
  else match fetch s with
    | .nothing => .next s
    | .instr i t => exec i t
    | .reserved _ t => .next t.markRefused

/-- `s` with the table word placed where the next step takes its input, on the port `tablePort` gives it (DESIGN CHOICE, log
entry 8, unsafe). A width no row has places nothing. -/
def State.withFetchWord (s : State) (nbits w : Nat) : State :=
  match tablePort nbits w with
  | none => s
  | some p => s.placeWord p

end Sys2Proof.Machine
end

