-- ==== Sys2Proof/Machine/Pseudo.lean ====
section
/-! DEFINITION. Runs of several instructions: a plain list, the pseudo-instructions of R94 (DRAIN, TICKS, POLL, SEND, PRESS),
and what the master observes in such a run. -/

namespace Sys2Proof.Machine

/-- Run instructions in order, stopping where one does not answer a next state. -/
def execAll : List Instr → State → StepOutcome
  | [], s => .next s
  | i :: rest, s =>
    match exec i s with
    | .next t => execAll rest t
    | .fault r => .fault r
    | .refused r => .refused r

/-- One item of an expanded pseudo-instruction: an instruction, or DRAIN of a bus. -/
inductive Item where
  | one (i : Instr)
  | drain (b : BusId)
deriving DecidableEq, Repr

/-- `DRAIN b`: ISR while an event is pending (R94). Each ISR consumes one event and raises none, so as many ISR steps as there
are pending events reach the end (DEDUCED, log entry 13, safe). -/
def drainEvents (b : BusId) (s : State) : StepOutcome :=
  execAll (List.replicate (s.bus b).evq.length (.isr b)) s

/-- Run one item. -/
def Item.run : Item → State → StepOutcome
  | .one i, s => exec i s
  | .drain b, s => drainEvents b s

/-- `TICKS b, n` (R94). -/
def ticks (b : BusId) (n : Nat) : List Item := List.replicate n (.one (.tick b))

/-- The read slots of a POLL, each followed by DRAIN: all but the last are acknowledged (R94). -/
def readSlots (b : BusId) : Nat → List Item
  | 0 => []
  | 1 => [.one (.wRead b true), .drain b]
  | n + 2 => .one (.wRead b false) :: .drain b :: readSlots b (n + 1)

/-- `POLL b, addr7, n` (R94). -/
def poll (b : BusId) (addr7 : BitVec 7) (n : Nat) : List Item :=
  [.one (.wStartR b addr7), .drain b] ++ readSlots b n ++ [.one (.wStop b), .drain b]

/-- The write slots of a SEND, each followed by DRAIN (R94). -/
def writeSlots (b : BusId) : List Byte → List Item
  | [] => []
  | v :: rest => .one (.wWrite b v) :: .drain b :: writeSlots b rest

/-- `SEND b, addr7, v1, ..., vn` (R94). -/
def send (b : BusId) (addr7 : BitVec 7) (vs : List Byte) : List Item :=
  [.one (.wStartW b addr7), .drain b] ++ writeSlots b vs ++ [.one (.wStop b), .drain b]

/-- `PRESS b, mask` (R94). ACTIVATE takes a 4-bit bus field. -/
def press (c : Params) (b : BusId) (mask : Byte) : List Item :=
  [.one (.activate (0#3 ++ b.bit) mask), .one (.step b)] ++ ticks b c.raw.tAssert ++ [.one (.step b)] ++
  ticks b c.raw.tHold ++ [.one (.step b), .one (.step b)] ++
  if (c.bus b).attnRelEn then
    ticks b c.raw.tRassert ++ [.one (.step b)] ++ ticks b c.raw.tRhold ++ [.one (.step b)]
  else []

/-- Whether an item is a W symbol of bus `b`. -/
def Item.isWireOf (b : BusId) : Item → Bool
  | .one (.wStartR b' _) => decide (b' = b)
  | .one (.wStartW b' _) => decide (b' = b)
  | .one (.wWrite b' _) => decide (b' = b)
  | .one (.wRead b' _) => decide (b' = b)
  | .one (.wStop b') => decide (b' = b)
  | _ => false

/-- Run items in order, collecting what the master of bus `b` observes for each of its W symbols. -/
def runObserving (b : BusId) : List Item → State → Option (List (Option WireObs) × State)
  | [], s => some ([], s)
  | it :: rest, s =>
    match it.run s with
    | .next t =>
      match runObserving b rest t with
      | some (os, u) => some (if it.isWireOf b then (t.bus b).masterObs :: os else os, u)
      | none => none
    | .fault _ => none
    | .refused _ => none

end Sys2Proof.Machine
end

