-- ==== Sys2Proof/Machine/RegisterMap.lean ====
section
/-! DEFINITION. The result codes (R88) and the register map (R42): the numeric codes of the named field values (R25, R26, R32, R34), the numbered view of a
bus's fields, and what the host may observe (R123). The numbers are names for models and tests: no instruction uses them. -/

namespace Sys2Proof

/-- The 8-bit result codes (R88). -/
def CmdResult.code : CmdResult → Byte
  | .ok => 0x00#8
  | .busUnavailable => 0x01#8
  | .busy => 0x02#8
  | .invalidMask => 0x03#8

end Sys2Proof

namespace Sys2Proof.Machine

/-- The code of `ENG_STATE[b]` (R25). -/
def EngState.code : EngState → BitVec 2
  | .idle => 0#2
  | .addressed => 1#2
  | .transferring => 2#2

/-- The value of a 2-bit `ENG_STATE[b]` code; 3 is never written (R25; file 93, row 18: fault). -/
def EngState.ofCode (v : BitVec 2) : Except Fault EngState :=
  if v = 0#2 then .ok .idle
  else if v = 1#2 then .ok .addressed
  else if v = 2#2 then .ok .transferring
  else .error (.illegalFieldValue 0x08)

/-- The code of `DIR[b]` (R26). -/
def Dir.code : Dir → BitVec 2
  | .none => 0#2
  | .read => 1#2
  | .write => 2#2

/-- The value of a 2-bit `DIR[b]` code; 3 is never written (R26; file 93, row 18: fault). -/
def Dir.ofCode (v : BitVec 2) : Except Fault Dir :=
  if v = 0#2 then .ok .none
  else if v = 1#2 then .ok .read
  else if v = 2#2 then .ok .write
  else .error (.illegalFieldValue 0x09)

/-- The code of `FE_SEL[b]` (R32). -/
def FeSel.code : FeSel → BitVec 2
  | .none => 0#2
  | .read => 1#2
  | .write => 2#2

/-- The value of a 2-bit `FE_SEL[b]` code; 3 is never written (R32; file 93, row 18: fault). -/
def FeSel.ofCode (v : BitVec 2) : Except Fault FeSel :=
  if v = 0#2 then .ok .none
  else if v = 1#2 then .ok .read
  else if v = 2#2 then .ok .write
  else .error (.illegalFieldValue 0x10)

/-- The code of `PHASE[b]` (R34, R170). -/
def Phase.code : Phase → BitVec 3
  | .idle => 0#3
  | .set => 1#3
  | .assert => 2#3
  | .hold => 3#3
  | .cleared => 4#3
  | .rassert => 5#3
  | .rhold => 6#3

/-- The value of a 3-bit `PHASE[b]` code; 7 is never written (R34; file 93, row 18: fault). -/
def Phase.ofCode (v : BitVec 3) : Except Fault Phase :=
  if v = 0#3 then .ok .idle
  else if v = 1#3 then .ok .set
  else if v = 2#3 then .ok .assert
  else if v = 3#3 then .ok .hold
  else if v = 4#3 then .ok .cleared
  else if v = 5#3 then .ok .rassert
  else if v = 6#3 then .ok .rhold
  else .error (.illegalFieldValue 0x12)

/-- The content of the field numbered `n` on bus `b` (R42): one number for a scalar, one per entry for a buffer or queue. -/
def State.field (s : State) (b : BusId) (n : Nat) : Option (List Nat) :=
  let x := s.bus b
  if n < 5 then some [(x.img.read n).toNat]
  else match n with
  | 0x05 => some [x.configured.toNat]
  | 0x06 => some [x.ownAddr.toNat]
  | 0x07 => some [x.engineEn.toNat]
  | 0x08 => some [x.engState.code.toNat]
  | 0x09 => some [x.dir.code.toNat]
  | 0x0A => some [x.rp.val]
  | 0x0B => some [x.widx]
  | 0x0C => some ((List.range s.params.raw.wbufLen).map fun i => (x.wbuf.read i).toNat)
  | 0x0D => some (x.txf.map BitVec.toNat)
  | 0x0E => some (x.rxf.map BitVec.toNat)
  | 0x0F => some (x.evq.map BitVec.toNat)
  | 0x10 => some [x.feSel.code.toNat]
  | 0x11 => some [x.feActive.toNat]
  | 0x12 => some [x.phase.code.toNat]
  | 0x13 => some [x.seqMask.toNat]
  | 0x14 => some [x.timer]
  | 0x15 => some [x.attn.toNat]
  | 0x16 => some [x.underrun.toNat]
  | 0x17 => some [s.refused.toNat]
  | _ => none

/-- What non-interrupt code may observe of the dispatcher: the image and the write index (R123). -/
def State.hostView (s : State) (b : BusId) : Image × Nat := (copyImage (s.bus b).img, (s.bus b).widx)

end Sys2Proof.Machine
end

