-- ==== Sys2Proof/Safety.lean ====
section
/-! DEFINITION. What counts as a legal state (R42 "legal values", R46, R170), which bus an instruction addresses (R47), and the
ticks a press still has to hold (R183): the terms the claims are stated in. -/

namespace Sys2Proof.Machine

/-! ### The invariant -/

/-- The phases in which the mask's bits stand in the image (R170). -/
def Phase.flagsSet : Phase → Bool
  | .set => true
  | .assert => true
  | .hold => true
  | .idle => false
  | .cleared => false
  | .rassert => false
  | .rhold => false

/-- The attention line of each phase (R170, column ATTN). -/
def Phase.attnLevel (c : BusParams) : Phase → Bool
  | .assert => c.attnEn
  | .rassert => true
  | .idle => false
  | .set => false
  | .hold => false
  | .cleared => false
  | .rhold => false

/-- The hold a phase is entered with; an untimed phase has none (R170, column timer). -/
def Phase.holdTicks (c : Params) : Phase → Nat
  | .assert => c.raw.tAssert
  | .hold => c.raw.tHold
  | .rassert => c.raw.tRassert
  | .rhold => c.raw.tRhold
  | .idle => 0
  | .set => 0
  | .cleared => 0

/-- The byte of a pending RX_BYTE event. -/
def rxData (w : BitVec 16) : Option Byte :=
  match decodeEvent w with
  | .ok (.rxByte v) => some v
  | _ => none

/-- A legal record of bus `b` under the configuration `c`. Clauses the spec does not state as such are read from its rules
(DEDUCED, log entry 15, safe). -/
structure BusInv (c : Params) (b : BusId) (x : BusState) : Prop where
  /-- both spaces keep their canonical form and their size (R60, R64) -/
  imgWf : x.img.wf = true
  imgWithin : x.img.within 5 = true
  wbufWf : x.wbuf.wf = true
  wbufWithin : x.wbuf.within c.raw.wbufLen = true
  /-- before the first CFG the image is five zero bytes (R156); after it, one defined class and the constants (R46 a, R42) -/
  unconfigured : x.configured = false → x.img = []
  configuredClass : x.configured = true → classDefined (x.img.read 0) = true
  configuredK3 : x.configured = true → x.img.read 3 = (c.bus b).k3
  configuredK4 : x.configured = true → x.img.read 4 = (c.bus b).k4
  /-- the flag byte is exactly the latched mask during the press and zero otherwise (R184); the other payload byte is zero -/
  flagByte : x.img.read (c.bus b).flagIdx.index = if x.phase.flagsSet then x.seqMask else 0x00#8
  otherByte : x.img.read (c.bus b).flagIdx.otherIndex = 0x00#8
  /-- the latched mask is valid, or nothing has been latched since reset (R42) -/
  maskLegal : maskValid (c.bus b).defined x.seqMask = true ∨ (x.seqMask = 0x00#8 ∧ x.phase = .idle)
  /-- a press runs only on a started and configured bus (R172) -/
  pressStarted : x.phase ≠ .idle → x.engineEn = true ∧ x.configured = true
  /-- the release phases exist only where the release pulse is enabled (R176) -/
  releaseEnabled : (x.phase = .rassert ∨ x.phase = .rhold) → (c.bus b).attnRelEn = true
  /-- the attention line and the timer of each phase (R170) -/
  attnLine : x.attn = x.phase.attnLevel (c.bus b)
  timerBound : x.timer ≤ x.phase.holdTicks c
  /-- `DIR` is NONE exactly when the engine is IDLE (R26, R111) -/
  dirIdle : x.dir = .none ↔ x.engState = .idle
  /-- a disabled engine has raised nothing and serves nothing (R24, R234) -/
  disabledQuiet : x.engineEn = false → x.evq = [] ∧ x.feActive = false ∧ x.engState = .idle
  /-- a selection belongs to an open transaction (R33) -/
  selActive : x.feSel ≠ .none → x.feActive = true
  /-- no queue or index exceeds its size (R28 to R30) -/
  txfFits : x.txf.length ≤ c.raw.txDepth
  rxfFits : x.rxf.length ≤ c.raw.rxDepth
  widxFits : x.widx ≤ c.raw.wbufLen
  /-- every pending word is a defined EV word (R83) -/
  evqDefined : ∀ w ∈ x.evq, ∃ e, decodeEvent w = .ok e
  /-- the receive FIFO holds exactly the bytes of the pending RX_BYTE events, in order (R115) -/
  rxfPending : x.rxf = x.evq.filterMap rxData

/-- A legal state: both buses are legal. -/
abbrev State.Inv (s : State) : Prop := ∀ b, BusInv s.params b (s.bus b)

/-! ### Buses an instruction addresses -/

/-- The bus an instruction addresses; RESET addresses both and a command to a bus that does not exist none. -/
def addresses (i : Instr) (b : BusId) : Bool :=
  match i with
  | .evAddrR b' _ => b' == b
  | .evAddrW b' _ => b' == b
  | .evTxLow b' _ => b' == b
  | .evRxByte b' _ => b' == b
  | .evStop b' => b' == b
  | .evErrArb b' => b' == b
  | .evErrNack b' => b' == b
  | .evErrTimeout b' => b' == b
  | .evErrOvf b' => b' == b
  | .wStartR b' _ => b' == b
  | .wStartW b' _ => b' == b
  | .wWrite b' _ => b' == b
  | .wRead b' _ => b' == b
  | .wStop b' => b' == b
  | .activate bus _ => BusId.ofField bus == some b
  | .cfg bus _ => BusId.ofField bus == some b
  | .start bus _ => BusId.ofField bus == some b
  | .reset => true
  | .tick b' => b' == b
  | .step b' => b' == b
  | .isr b' => b' == b
  | .xArb b' => b' == b
  | .xTimeout b' => b' == b

/-- The bus of a handler step: ISR, or an event rule itself. -/
def handlerBus : Instr → Option BusId
  | .evAddrR b _ => some b
  | .evAddrW b _ => some b
  | .evTxLow b _ => some b
  | .evRxByte b _ => some b
  | .evStop b => some b
  | .evErrArb b => some b
  | .evErrNack b => some b
  | .evErrTimeout b => some b
  | .evErrOvf b => some b
  | .isr b => some b
  | .wStartR _ _ => none
  | .wStartW _ _ => none
  | .wWrite _ _ => none
  | .wRead _ _ => none
  | .wStop _ => none
  | .activate _ _ => none
  | .cfg _ _ => none
  | .start _ _ => none
  | .reset => none
  | .tick _ => none
  | .step _ => none
  | .xArb _ => none
  | .xTimeout _ => none

/-! ### How long a press holds -/

/-- The ticks that must still pass before the press of a bus clears its bits (R183). -/
def BusState.ticksToRelease (c : Params) (x : BusState) : Nat :=
  match x.phase with
  | .set => c.raw.tAssert + c.raw.tHold
  | .assert => x.timer + c.raw.tHold
  | .hold => x.timer
  | .idle => 0
  | .cleared => 0
  | .rassert => 0
  | .rhold => 0

/-- The number of ticks of bus `b` in a run. -/
def ticksIn (b : BusId) (is : List Instr) : Nat := is.countP fun i => i == .tick b

end Sys2Proof.Machine
end

