-- ==== Sys2Proof/Certificates/Slice0/Obligations.lean ====
section
/-! DEFINITION. The statements for the provers. Each docstring names the rules a statement formalises. A statement of an
instruction's result is an equation for the whole next state, so it is the instruction's frame and its completion at once:
every field the record update does not name is unchanged. -/

open Sys2Proof Sys2Proof.Machine

/-! ### Encoding -/

/-- R81 to R91: the decoder of a port gives back every well-formed instruction from its word, with all its operands. -/
def Obligations.DecodeReturnsTheEncodedInstruction : Prop :=
  ∀ i : Instr, WellFormed i = true → decode (encode i) = .ok i

/-- R81 to R91: a word that decodes has one meaning: it is the word of the well-formed instruction it decodes to. -/
def Obligations.EncodeReturnsTheDecodedWord : Prop :=
  ∀ (p : PortWord) (i : Instr), decode p = .ok i → WellFormed i = true ∧ encode i = p

/-- R95: every word of a format is reserved and in no row, or decodes and is in exactly one row, its instruction's. -/
def Obligations.EveryWordIsReservedOrInOneRow : Prop :=
  ∀ p : PortWord,
    ((∃ r, decode p = .error r) ∧ opcodeRows.filter (fun r => r.holds p) = []) ∨
    (∃ i, decode p = .ok i ∧ opcodeRows.filter (fun r => r.holds p) = [rowOf i])

/-- R83: the reserved EV words. -/
def Obligations.ReservedEventWords : Prop :=
  ∀ w : BitVec 16,
    (∃ r, decodeEvent w = .error r) ↔
      (let code := w.toNat / 4096
       let z := w.toNat / 256 % 16
       let data := w.toNat % 256
       code = 0 ∨ code = 5 ∨ code = 6 ∨ code = 7 ∨ 12 ≤ code ∨ z ≠ 0 ∨
       ((code = 4 ∨ (8 ≤ code ∧ code ≤ 11)) ∧ data ≠ 0) ∨ (code = 2 ∧ data = 0))

/-- R85, R87, R91: the reserved W, CMD and SQ words. -/
def Obligations.ReservedWireCommandAndSchedulerWords : Prop :=
  (∀ (b : BusId) (w : BitVec 10), (∃ r, decode (.wire b w) = .error r) ↔
    (w.toNat / 256 = 2 ∧ w.toNat % 256 / 2 ≠ 0) ∨ (w.toNat / 256 = 3 ∧ w.toNat % 256 ≠ 0)) ∧
  (∀ w : BitVec 16, (∃ r, decode (.cmd w) = .error r) ↔
    w.toNat / 4096 = 0 ∨ (4 ≤ w.toNat / 4096 ∧ w.toNat / 4096 ≤ 14) ∨
    (w.toNat / 4096 = 3 ∧ 128 ≤ w.toNat % 256) ∨ (w.toNat / 4096 = 15 ∧ w.toNat % 4096 ≠ 0)) ∧
  (∀ w : BitVec 8, (∃ r, decode (.sq w) = .error r) ↔
    w.toNat / 16 = 0 ∨ 6 ≤ w.toNat / 16 ∨ 2 ≤ w.toNat % 16)

/-- R82, R84, R87, R90, with the words of file 95 (E-1, E-2, E-3, E-5, E-8, E-12, E-14, E-16, E-19, E-21, E-24, E-26). -/
def Obligations.WordsOfTheSpecDecode : Prop :=
  decode (.ev .b0 0x104B#16) = .ok (.evAddrR .b0 0x25#7) ∧
  decode (.ev .b0 0x104A#16) = .ok (.evAddrW .b0 0x25#7) ∧
  decode (.ev .b1 0x2003#16) = .ok (.evTxLow .b1 0x03#8) ∧
  decode (.ev .b1 0x3041#16) = .ok (.evRxByte .b1 0x41#8) ∧
  decode (.ev .b0 0x9000#16) = .ok (.evErrNack .b0) ∧
  decode (.cmd 0x1208#16) = .ok (.activate 2#4 0x08#8) ∧
  decode (.cmd 0x3125#16) = .ok (.start 1#4 0x25#7) ∧
  decode (.cmd 0xF000#16) = .ok .reset ∧
  decode (.sq 0x51#8) = .ok (.xTimeout .b1) ∧
  decode (.wire .b0 0x04B#10) = .ok (.wStartR .b0 0x25#7) ∧
  decode (.wire .b1 0x201#10) = .ok (.wRead .b1 true) ∧
  decode (.wire .b1 0x300#10) = .ok (.wStop .b1)

/-- R25, R26, R32, R34: the codes of the named field values read back, and the codes that are never written are faults
(file 93, row 18). -/
def Obligations.IllegalFieldCodesAreFaults : Prop :=
  (∀ e : EngState, EngState.ofCode e.code = .ok e) ∧ EngState.ofCode 3#2 = .error (.illegalFieldValue 0x08) ∧
  (∀ d : Dir, Dir.ofCode d.code = .ok d) ∧ Dir.ofCode 3#2 = .error (.illegalFieldValue 0x09) ∧
  (∀ f : FeSel, FeSel.ofCode f.code = .ok f) ∧ FeSel.ofCode 3#2 = .error (.illegalFieldValue 0x10) ∧
  (∀ p : Phase, Phase.ofCode p.code = .ok p) ∧ Phase.ofCode 7#3 = .error (.illegalFieldValue 0x12)

/-! ### Steps -/

/-- R10, R11, R80: a step takes the next pick and runs the instruction its word decodes to, on the state without that pick. -/
def Obligations.StepRunsTheDecodedPick : Prop :=
  ∀ (s : State) (p : Pick) (rest : List Pick) (i : Instr),
    s.refused = false → s.schedule = p :: rest → decode p.word = .ok i →
    step s = exec i { s with schedule := rest }

/-- R10, R45: a reserved word sets REFUSED and does nothing else, but that its pick is gone (the pick is the model's, log entry
2); the next step of such a run has no meaning. -/
def Obligations.ReservedPickRefusesTheRun : Prop :=
  ∀ (s : State) (p : Pick) (rest : List Pick) (r : Reserved),
    s.refused = false → s.schedule = p :: rest → decode p.word = .error r →
    step s = .next { s with schedule := rest, refused := true } ∧
    step { s with schedule := rest, refused := true } = .refused .runHasNoMeaning

/-- R110: ISR takes the oldest pending event and runs the one rule its word decodes to. It completes. -/
def Obligations.IsrRunsTheOldestEvent : Prop :=
  ∀ (s : State) (b : BusId) (w : BitVec 16) (rest : List (BitVec 16)) (i : Instr),
    (s.bus b).evq = w :: rest → decode (.ev b w) = .ok i →
    ∃ t, exec (.isr b) s = .next t ∧ exec i (s.setBus b { s.bus b with evq := rest }) = .next t ∧ (t.bus b).evq = rest

/-- R121: a reserved word at the head of the queue is refused: it stays, and REFUSED is set. -/
def Obligations.IsrRefusesAReservedEvent : Prop :=
  ∀ (s : State) (b : BusId) (w : BitVec 16) (rest : List (BitVec 16)) (r : Reserved),
    (s.bus b).evq = w :: rest → decode (.ev b w) = .error r →
    exec (.isr b) s = .next { s with refused := true }

/-- R91, R110, R179, R212, R213: a step of an agent that has no enabled step is not taken. That such a pick then leaves the state
as it is, is the model's reading (log entry 3). -/
def Obligations.StepsThatAreNotEnabledAreNotTaken : Prop :=
  ∀ (s : State) (b : BusId),
    ((s.bus b).evq = [] → exec (.isr b) s = .next s) ∧
    ((s.bus b).phase = .idle → exec (.step b) s = .next s) ∧
    ((s.bus b).phase ∈ [Phase.assert, .hold, .rassert, .rhold] → 0 < (s.bus b).timer → exec (.step b) s = .next s) ∧
    ((s.bus b).feSel ≠ .read → exec (.xArb b) s = .next s) ∧
    ((s.bus b).feActive = false → exec (.xTimeout b) s = .next s)

/-- R122, R124, R214, R231, R232 and the rules of each instruction: `exec` answers a next state for every instruction, in every
state. For a step or symbol that is not enabled (R91, R179, R211 to R213) this is the unchanged state, by the model's choice (log
entry 3); for what a rule refuses (R121, and R154 for an undefined class) it is the state with REFUSED set (log entry 6). -/
def Obligations.EveryInstructionAnswersANextState : Prop :=
  ∀ (i : Instr) (s : State), ∃ t, exec i s = .next t

/-! ### Event rules of the dispatcher -/

/-- R112: an address match for reading flushes the FIFO and fills it at once from image byte 0. -/
def Obligations.AddressMatchReadFillsFromByteZero : Prop :=
  ∀ (s : State) (b : BusId) (a : BitVec 7),
    exec (.evAddrR b a) s = .next (s.setBus b { s.bus b with
      txf := (snapshot s.params b (s.bus b)).toList.take (min 5 s.params.raw.txDepth)
      rp := Fin.ofNat 5 (min 5 s.params.raw.txDepth)
      dir := .read
      engState := .addressed })

/-- R113: an address match for writing resets the write index. -/
def Obligations.AddressMatchWriteResetsTheIndex : Prop :=
  ∀ (s : State) (b : BusId) (a : BitVec 7),
    exec (.evAddrW b a) s = .next (s.setBus b { s.bus b with widx := 0, dir := .write, engState := .addressed })

/-- R114, R152: inside a read transaction TX_LOW pushes as many bytes as are free now, from the read pointer on, wrapping at 5. -/
def Obligations.TxLowRefillsTheFreeSpace : Prop :=
  ∀ (s : State) (b : BusId) (room : Byte), (s.bus b).dir = .read → (s.bus b).engState ≠ .idle →
    ∃ bytes : List Byte,
      bytes.length = s.params.raw.txDepth - (s.bus b).txf.length ∧
      (∀ k, k < bytes.length → bytes[k]? = (snapshot s.params b (s.bus b)).toList[((s.bus b).rp.val + k) % 5]?) ∧
      exec (.evTxLow b room) s = .next (s.setBus b { s.bus b with
        txf := (s.bus b).txf ++ bytes
        rp := Fin.ofNat 5 ((s.bus b).rp.val + bytes.length)
        engState := .transferring })

/-- R114, R115: outside a read transaction TX_LOW is skipped, and outside a write transaction a received byte is drained and
discarded. -/
def Obligations.EventsOutsideTheirTransactionChangeLittle : Prop :=
  ∀ (s : State) (b : BusId) (v : Byte),
    ((s.bus b).dir ≠ .read ∨ (s.bus b).engState = .idle → exec (.evTxLow b v) s = .next s) ∧
    ((s.bus b).dir ≠ .write ∨ (s.bus b).engState = .idle →
      exec (.evRxByte b v) s = .next (s.setBus b { s.bus b with rxf := (s.bus b).rxf.tail }))

/-- R115: inside a write transaction a received byte is drained and stored at the write index, and no other byte of the buffer
changes. -/
def Obligations.ReceivedByteIsStoredAtTheIndex : Prop :=
  ∀ (s : State) (b : BusId) (v : Byte),
    (s.bus b).dir = .write → (s.bus b).engState ≠ .idle → (s.bus b).widx < s.params.raw.wbufLen → (s.bus b).wbuf.wf = true →
    ∃ t, exec (.evRxByte b v) s = .next t ∧
      (∀ a, (t.bus b).wbuf.read a = if a = (s.bus b).widx then v else (s.bus b).wbuf.read a) ∧
      t = s.setBus b { s.bus b with
        rxf := (s.bus b).rxf.tail
        wbuf := (t.bus b).wbuf
        widx := (s.bus b).widx + 1
        engState := .transferring }

/-- R115: with the write-reassembly buffer full the byte is drained and dropped, and the index saturates. -/
def Obligations.ReceivedByteIsDroppedWhenTheBufferIsFull : Prop :=
  ∀ (s : State) (b : BusId) (v : Byte),
    (s.bus b).dir = .write → (s.bus b).engState ≠ .idle → s.params.raw.wbufLen ≤ (s.bus b).widx →
    exec (.evRxByte b v) s = .next (s.setBus b { s.bus b with rxf := (s.bus b).rxf.tail, engState := .transferring })

/-- R116 to R120: STOP and the four hardware errors return the engine to (IDLE, NONE) and write nothing else. -/
def Obligations.StopAndErrorsReturnToIdle : Prop :=
  ∀ (s : State) (b : BusId) (i : Instr),
    i ∈ [Instr.evStop b, .evErrArb b, .evErrNack b, .evErrTimeout b, .evErrOvf b] →
    exec i s = .next (s.setBus b { s.bus b with engState := .idle, dir := .none })

/-- R111: the transitions of (`ENG_STATE`, `DIR`) under the nine events. -/
def Obligations.EngineTransitions : Prop :=
  ∀ (s : State) (b : BusId) (e : Event), ∃ t, exec (e.instr b) s = .next t ∧
    ((t.bus b).engState, (t.bus b).dir) =
      match e with
      | .addrR _ => (EngState.addressed, Dir.read)
      | .addrW _ => (.addressed, .write)
      | .txLow _ =>
        if (s.bus b).dir = .read ∧ (s.bus b).engState ≠ .idle then (.transferring, .read)
        else ((s.bus b).engState, (s.bus b).dir)
      | .rxByte _ =>
        if (s.bus b).dir = .write ∧ (s.bus b).engState ≠ .idle then (.transferring, .write)
        else ((s.bus b).engState, (s.bus b).dir)
      | .stop => (.idle, .none)
      | .errArb => (.idle, .none)
      | .errNack => (.idle, .none)
      | .errTimeout => (.idle, .none)
      | .errOvf => (.idle, .none)

/-- R124: every handler step completes, and none writes the image, the sequencer's fields, the attention line, the front end's
own fields, the other bus, the configuration or a command result. -/
def Obligations.HandlerWritesOnlyDispatcherFields : Prop :=
  ∀ (i : Instr) (b : BusId) (s : State), handlerBus i = some b → ∃ t, exec i s = .next t ∧
    (∀ a, (t.bus b).img.read a = (s.bus b).img.read a) ∧
    (t.bus b).phase = (s.bus b).phase ∧ (t.bus b).seqMask = (s.bus b).seqMask ∧ (t.bus b).timer = (s.bus b).timer ∧
    (t.bus b).attn = (s.bus b).attn ∧ (t.bus b).configured = (s.bus b).configured ∧
    (t.bus b).ownAddr = (s.bus b).ownAddr ∧ (t.bus b).engineEn = (s.bus b).engineEn ∧
    (t.bus b).feSel = (s.bus b).feSel ∧ (t.bus b).feActive = (s.bus b).feActive ∧
    (t.bus b).underrun = (s.bus b).underrun ∧ (t.bus b).draws = (s.bus b).draws ∧
    (t.bus b).masterObs = (s.bus b).masterObs ∧
    t.bus b.other = s.bus b.other ∧ t.params = s.params ∧ t.cmdResult = s.cmdResult ∧ t.schedule = s.schedule

/-! ### Front end -/

/-- R201: a START for reading that matches is acknowledged, selects the peripheral and raises EV.ADDR_R with the address byte. -/
def Obligations.StartReadMatchSelects : Prop :=
  ∀ (s : State) (b : BusId) (a : BitVec 7), (s.bus b).evq = [] ∨ s.params.raw.stretch = false →
    (s.bus b).engineEn = true → (s.bus b).ownAddr = a →
    exec (.wStartR b a) s = .next (s.setBus b { s.bus b with
      feSel := .read
      feActive := true
      evq := (s.bus b).evq ++ [0x1000#16 ||| (a ++ 1#1).setWidth 16]
      masterObs := some .ack })

/-- R203: a START for writing that matches is acknowledged, selects the peripheral and raises EV.ADDR_W with the address byte. -/
def Obligations.StartWriteMatchSelects : Prop :=
  ∀ (s : State) (b : BusId) (a : BitVec 7), (s.bus b).evq = [] ∨ s.params.raw.stretch = false →
    (s.bus b).engineEn = true → (s.bus b).ownAddr = a →
    exec (.wStartW b a) s = .next (s.setBus b { s.bus b with
      feSel := .write
      feActive := true
      evq := (s.bus b).evq ++ [0x1000#16 ||| (a ++ 0#1).setWidth 16]
      masterObs := some .ack })

/-- R202: a START to another address, or to an engine that is not enabled, is answered NACK, raises nothing and ends the
selection. -/
def Obligations.StartWithoutMatchIsNacked : Prop :=
  ∀ (s : State) (b : BusId) (a : BitVec 7) (i : Instr), i ∈ [Instr.wStartR b a, .wStartW b a] →
    (s.bus b).evq = [] ∨ s.params.raw.stretch = false →
    (s.bus b).engineEn = false ∨ (s.bus b).ownAddr ≠ a →
    exec i s = .next (s.setBus b { s.bus b with feSel := .none, masterObs := some .nack })

/-- R204: a byte written to the selected peripheral is acknowledged, queued and raises EV.RX_BYTE with the byte. -/
def Obligations.WriteQueuesTheByte : Prop :=
  ∀ (s : State) (b : BusId) (v : Byte), (s.bus b).evq = [] ∨ s.params.raw.stretch = false →
    (s.bus b).feSel = .write → (s.bus b).rxf.length < s.params.raw.rxDepth →
    exec (.wWrite b v) s = .next (s.setBus b { s.bus b with
      rxf := (s.bus b).rxf ++ [v]
      evq := (s.bus b).evq ++ [0x3000#16 ||| v.setWidth 16]
      masterObs := some .ack })

/-- R205: a byte that finds the receive FIFO full is acknowledged, lost, and raises EV.ERR_OVF. -/
def Obligations.WriteToAFullFifoOverflows : Prop :=
  ∀ (s : State) (b : BusId) (v : Byte), (s.bus b).evq = [] ∨ s.params.raw.stretch = false →
    (s.bus b).feSel = .write → s.params.raw.rxDepth ≤ (s.bus b).rxf.length →
    exec (.wWrite b v) s = .next (s.setBus b { s.bus b with
      evq := (s.bus b).evq ++ [0xB000#16]
      masterObs := some .ack })

/-- R204: a byte written while the peripheral is not selected for writing is answered NACK and recorded nowhere. -/
def Obligations.WriteWhileNotSelectedIsNacked : Prop :=
  ∀ (s : State) (b : BusId) (v : Byte), (s.bus b).evq = [] ∨ s.params.raw.stretch = false → (s.bus b).feSel ≠ .write →
    exec (.wWrite b v) s = .next (s.setBus b { s.bus b with masterObs := some .nack })

/-- R206 to R208, R236: a read slot sends the FIFO's head; the pop that crosses to the threshold raises TX_LOW with the free
space, and then a NACK raises ERR_NACK and ends the selection. -/
def Obligations.ReadSendsTheHeadOfTheFifo : Prop :=
  ∀ (s : State) (b : BusId) (nack : Bool) (v : Byte) (rest : List Byte),
    (s.bus b).evq = [] ∨ s.params.raw.stretch = false → (s.bus b).feSel = .read → (s.bus b).txf = v :: rest →
    exec (.wRead b nack) s = .next (s.setBus b { s.bus b with
      txf := rest
      evq := (s.bus b).evq ++
        (if rest.length = s.params.raw.txLowThresh then [0x2000#16 ||| BitVec.ofNat 16 (s.params.raw.txDepth - rest.length)] else []) ++
        (if nack then [0x9000#16] else [])
      feSel := if nack then .none else .read
      masterObs := some (.byte v) })

/-- R206, R208: a read slot that finds the FIFO empty sends a drawn byte and sets UNDERRUN; only a NACK raises an event. -/
def Obligations.ReadOfAnEmptyFifoIsAnUnderrun : Prop :=
  ∀ (s : State) (b : BusId) (nack : Bool),
    (s.bus b).evq = [] ∨ s.params.raw.stretch = false → (s.bus b).feSel = .read → (s.bus b).txf = [] →
    exec (.wRead b nack) s = .next (s.setBus b { s.bus b with
      evq := (s.bus b).evq ++ (if nack then [0x9000#16] else [])
      feSel := if nack then .none else .read
      underrun := true
      draws := (s.bus b).draws + 1
      masterObs := some (.byte (Config.drawnByte b (s.bus b).draws)) })

/-- R209: a read slot while the peripheral is not selected for reading gives the master a drawn byte and changes nothing of the
peripheral. -/
def Obligations.ReadWhileNotSelectedDraws : Prop :=
  ∀ (s : State) (b : BusId) (nack : Bool),
    (s.bus b).evq = [] ∨ s.params.raw.stretch = false → (s.bus b).feSel ≠ .read →
    exec (.wRead b nack) s = .next (s.setBus b { s.bus b with
      draws := (s.bus b).draws + 1
      masterObs := some (.byte (Config.drawnByte b (s.bus b).draws)) })

/-- R210: a STOP on the wire raises EV.STOP exactly when it ends a matched transaction. -/
def Obligations.WireStopEndsTheTransaction : Prop :=
  ∀ (s : State) (b : BusId), (s.bus b).evq = [] ∨ s.params.raw.stretch = false →
    exec (.wStop b) s = .next (s.setBus b { s.bus b with
      evq := (s.bus b).evq ++ (if (s.bus b).feActive then [0x4000#16] else [])
      feActive := false
      feSel := .none
      masterObs := some .nothing })

/-- R211: with clock stretching, no W symbol of a bus is taken while an event of that bus is pending. That such a symbol then
leaves the state as it is, is the model's reading (log entry 3). -/
def Obligations.StretchingHoldsTheWire : Prop :=
  ∀ (s : State) (b : BusId) (a : BitVec 7) (v : Byte) (nack : Bool) (i : Instr),
    s.params.raw.stretch = true → (s.bus b).evq ≠ [] →
    i ∈ [Instr.wStartR b a, .wStartW b a, .wWrite b v, .wRead b nack, .wStop b] → exec i s = .next s

/-- R212: arbitration lost raises EV.ERR_ARB and ends the selection. -/
def Obligations.ArbitrationLossEndsTheSelection : Prop :=
  ∀ (s : State) (b : BusId), (s.bus b).feSel = .read →
    exec (.xArb b) s = .next (s.setBus b { s.bus b with evq := (s.bus b).evq ++ [0x8000#16], feSel := .none })

/-- R213: a timeout raises EV.ERR_TIMEOUT and abandons the transaction in the front end. -/
def Obligations.TimeoutAbandonsTheTransaction : Prop :=
  ∀ (s : State) (b : BusId), (s.bus b).feActive = true →
    exec (.xTimeout b) s = .next (s.setBus b { s.bus b with
      evq := (s.bus b).evq ++ [0xA000#16], feSel := .none, feActive := false })

/-! ### Host commands -/

/-- R171, R172: an ACTIVATE that passes the four checks ORs the mask into the flag byte alone, latches it and enters SET. -/
def Obligations.ActivateSetsTheMaskBits : Prop :=
  ∀ (s : State) (bus : BitVec 4) (b : BusId) (mask : Byte), BusId.ofField bus = some b →
    (s.bus b).engineEn = true → (s.bus b).configured = true → (s.bus b).phase = .idle →
    mask ≠ 0#8 → mask &&& ~~~(s.params.bus b).defined = 0#8 → (s.bus b).img.wf = true →
    ∃ t, exec (.activate bus mask) s = .next t ∧
      (∀ a, (t.bus b).img.read a =
        if a = (s.params.bus b).flagIdx.index then (s.bus b).img.read a ||| mask else (s.bus b).img.read a) ∧
      t = (s.setBus b { s.bus b with img := (t.bus b).img, seqMask := mask, phase := .set }).reply .ok

/-- R172, R231: an ACTIVATE that fails a check returns the first failing check's error and changes nothing else. -/
def Obligations.ActivateReturnsTheFirstError : Prop :=
  ∀ (s : State) (bus : BitVec 4) (mask : Byte),
    (2 ≤ bus.toNat → exec (.activate bus mask) s = .next (s.reply .busUnavailable)) ∧
    (∀ b, BusId.ofField bus = some b →
      ((s.bus b).engineEn = false ∨ (s.bus b).configured = false →
        exec (.activate bus mask) s = .next (s.reply .busUnavailable)) ∧
      ((s.bus b).engineEn = true → (s.bus b).configured = true → (s.bus b).phase ≠ .idle →
        exec (.activate bus mask) s = .next (s.reply .busy)) ∧
      ((s.bus b).engineEn = true → (s.bus b).configured = true → (s.bus b).phase = .idle →
        mask = 0#8 ∨ mask &&& ~~~(s.params.bus b).defined ≠ 0#8 →
        exec (.activate bus mask) s = .next (s.reply .invalidMask)))

/-- R154: CFG with a defined class, while no press is in flight, writes the five image bytes and marks the bus configured. -/
def Obligations.CfgWritesTheWholeImage : Prop :=
  ∀ (s : State) (bus : BitVec 4) (b : BusId) (cls : Byte), BusId.ofField bus = some b →
    (s.bus b).phase = .idle → cls ∈ [0x02#8, 0x03#8, 0x06#8] → (s.bus b).img.wf = true →
    ∃ t, exec (.cfg bus cls) s = .next t ∧
      (∀ a, (t.bus b).img.read a =
        if a = 0 then cls else if a = 1 ∨ a = 2 then 0#8
        else if a = 3 then (s.params.bus b).k3 else if a = 4 then (s.params.bus b).k4 else (s.bus b).img.read a) ∧
      t = (s.setBus b { s.bus b with img := (t.bus b).img, configured := true }).reply .ok

/-- R154, R238: CFG's errors in their order: BusUnavailable, then Busy, then refusal of an undefined class. -/
def Obligations.CfgReturnsTheFirstError : Prop :=
  ∀ (s : State) (bus : BitVec 4) (cls : Byte),
    (2 ≤ bus.toNat → exec (.cfg bus cls) s = .next (s.reply .busUnavailable)) ∧
    (∀ b, BusId.ofField bus = some b →
      ((s.bus b).phase ≠ .idle → exec (.cfg bus cls) s = .next (s.reply .busy)) ∧
      ((s.bus b).phase = .idle → cls ∉ [0x02#8, 0x03#8, 0x06#8] →
        exec (.cfg bus cls) s = .next { s with refused := true }))

/-- R263: START on an engine that is not enabled sets the own address and enables it. -/
def Obligations.StartEnablesTheEngine : Prop :=
  ∀ (s : State) (bus : BitVec 4) (b : BusId) (a : BitVec 7), BusId.ofField bus = some b → (s.bus b).engineEn = false →
    exec (.start bus a) s =
      .next ((s.setBus b { s.bus b with ownAddr := a, engineEn := true }).reply .ok)

/-- R263, R238: START's errors in their order: BusUnavailable, then Busy. -/
def Obligations.StartReturnsTheFirstError : Prop :=
  ∀ (s : State) (bus : BitVec 4) (a : BitVec 7),
    (2 ≤ bus.toNat → exec (.start bus a) s = .next (s.reply .busUnavailable)) ∧
    (∀ b, BusId.ofField bus = some b → (s.bus b).engineEn = true →
      exec (.start bus a) s = .next (s.reply .busy))

/-- R260: RESET returns every field of both buses to its reset value, but for `WBUF` and the sticky marks. (That the two fields
of the model's own, `draws` and `masterObs`, are kept is the model's choice, log entries 4 and 5.) -/
def Obligations.ResetClearsBothBuses : Prop :=
  ∀ s : State, ∃ t, exec .reset s = .next t ∧
    t.refused = s.refused ∧ t.params = s.params ∧ t.schedule = s.schedule ∧ t.cmdResult = some .ok ∧
    ∀ b, (∀ a, a < 5 → (t.bus b).img.read a = 0x00#8) ∧
      (t.bus b).configured = false ∧ (t.bus b).ownAddr = 0#7 ∧ (t.bus b).engineEn = false ∧
      (t.bus b).engState = .idle ∧ (t.bus b).dir = .none ∧ (t.bus b).rp = 0 ∧ (t.bus b).widx = 0 ∧
      (t.bus b).txf = [] ∧ (t.bus b).rxf = [] ∧ (t.bus b).evq = [] ∧
      (t.bus b).feSel = .none ∧ (t.bus b).feActive = false ∧
      (t.bus b).phase = .idle ∧ (t.bus b).seqMask = 0#8 ∧ (t.bus b).timer = 0 ∧ (t.bus b).attn = false ∧
      (∀ a, (t.bus b).wbuf.read a = (s.bus b).wbuf.read a) ∧ (t.bus b).underrun = (s.bus b).underrun ∧
      (t.bus b).draws = (s.bus b).draws ∧ (t.bus b).masterObs = (s.bus b).masterObs

/-- R261, R262: the power-on state has every field the spec gives a reset value at that value, and both sticky marks 0. -/
def Obligations.PowerOnValues : Prop :=
  State.reset.refused = false ∧
  ∀ b, (∀ a, a < 5 → (State.reset.bus b).img.read a = 0x00#8) ∧
    (State.reset.bus b).configured = false ∧ (State.reset.bus b).ownAddr = 0#7 ∧ (State.reset.bus b).engineEn = false ∧
    (State.reset.bus b).engState = .idle ∧ (State.reset.bus b).dir = .none ∧ (State.reset.bus b).rp = 0 ∧
    (State.reset.bus b).widx = 0 ∧ (State.reset.bus b).txf = [] ∧ (State.reset.bus b).rxf = [] ∧
    (State.reset.bus b).evq = [] ∧ (State.reset.bus b).feSel = .none ∧ (State.reset.bus b).feActive = false ∧
    (State.reset.bus b).phase = .idle ∧ (State.reset.bus b).seqMask = 0#8 ∧ (State.reset.bus b).timer = 0 ∧
    (State.reset.bus b).attn = false ∧ (State.reset.bus b).underrun = false

/-! ### Sequencer -/

/-- R173: from SET, the attention line is asserted where it is enabled and the assert hold begins. -/
def Obligations.StepFromSetAssertsTheLine : Prop :=
  ∀ (s : State) (b : BusId), (s.bus b).phase = .set →
    exec (.step b) s = .next (s.setBus b { s.bus b with
      attn := (s.params.bus b).attnEn, timer := s.params.raw.tAssert, phase := .assert })

/-- R174: from ASSERT with the hold over, the line is deasserted and the release wait begins. -/
def Obligations.StepFromAssertBeginsTheReleaseWait : Prop :=
  ∀ (s : State) (b : BusId), (s.bus b).phase = .assert → (s.bus b).timer = 0 →
    exec (.step b) s = .next (s.setBus b { s.bus b with attn := false, timer := s.params.raw.tHold, phase := .hold })

/-- R175: from HOLD with the wait over, the latched bits are cleared in the flag byte and nowhere else. -/
def Obligations.StepFromHoldClearsTheMaskBits : Prop :=
  ∀ (s : State) (b : BusId), (s.bus b).phase = .hold → (s.bus b).timer = 0 → (s.bus b).img.wf = true →
    ∃ t, exec (.step b) s = .next t ∧
      (∀ a, (t.bus b).img.read a =
        if a = (s.params.bus b).flagIdx.index then (s.bus b).img.read a &&& ~~~(s.bus b).seqMask
        else (s.bus b).img.read a) ∧
      t = s.setBus b { s.bus b with img := (t.bus b).img, phase := .cleared }

/-- R176: from CLEARED, the release pulse begins where it is enabled; otherwise the press ends. -/
def Obligations.StepFromClearedPulsesOrEnds : Prop :=
  ∀ (s : State) (b : BusId), (s.bus b).phase = .cleared →
    exec (.step b) s = .next (s.setBus b
      (if (s.params.bus b).attnRelEn then
        { s.bus b with attn := true, timer := s.params.raw.tRassert, phase := .rassert }
      else { s.bus b with phase := .idle }))

/-- R177: from RASSERT with the hold over, the line is deasserted and the final wait begins. -/
def Obligations.StepFromRassertBeginsTheFinalWait : Prop :=
  ∀ (s : State) (b : BusId), (s.bus b).phase = .rassert → (s.bus b).timer = 0 →
    exec (.step b) s = .next (s.setBus b { s.bus b with attn := false, timer := s.params.raw.tRhold, phase := .rhold })

/-- R178: from RHOLD with the wait over, the press ends. -/
def Obligations.StepFromRholdEndsThePress : Prop :=
  ∀ (s : State) (b : BusId), (s.bus b).phase = .rhold → (s.bus b).timer = 0 →
    exec (.step b) s = .next (s.setBus b { s.bus b with phase := .idle })

/-- R180: a tick counts a running timer of a timed phase down by one, and changes nothing else. -/
def Obligations.TickCountsTheTimerDown : Prop :=
  ∀ (s : State) (b : BusId),
    exec (.tick b) s = .next (s.setBus b { s.bus b with
      timer := if (s.bus b).phase ∈ [Phase.assert, .hold, .rassert, .rhold] then (s.bus b).timer - 1 else (s.bus b).timer })

/-- R170, R181: the phase of a bus changes only by an accepted ACTIVATE from IDLE, by the STEPs of R170's table, or by RESET. -/
def Obligations.PhaseChangesOnlyAlongThePress : Prop :=
  ∀ (i : Instr) (s t : State) (b : BusId), exec i s = .next t → (t.bus b).phase ≠ (s.bus b).phase →
    (i = .reset ∧ (t.bus b).phase = .idle) ∨
    (∃ bus mask, i = .activate bus mask ∧ BusId.ofField bus = some b ∧ (s.bus b).phase = .idle ∧ (t.bus b).phase = .set) ∨
    (i = .step b ∧ ((s.bus b).phase, (t.bus b).phase) ∈
      [(Phase.set, Phase.assert), (.assert, .hold), (.hold, .cleared), (.cleared, .idle), (.cleared, .rassert),
       (.rassert, .rhold), (.rhold, .idle)])

/-- R183, with R9: between the step that enters `ASSERT` (or `HOLD`) and one that leaves it there are at least `T_ASSERT` (`T_HOLD`)
ticks, whatever else runs but RESET; and the flag bits of a press just accepted stay in the image for at least
`T_ASSERT + T_HOLD` ticks, which is longer than the master's minimum poll interval (both durations as whole numbers of one time
unit: the model's choice, log entry 9). -/
def Obligations.PressHoldsForItsTicks : Prop :=
  ∀ (is : List Instr) (s u : State) (b : BusId), Instr.reset ∉ is → execAll is s = .next u →
    ((s.bus b).phase = .assert → (s.bus b).timer = s.params.raw.tAssert → (u.bus b).phase ≠ .assert →
      s.params.raw.tAssert ≤ ticksIn b is) ∧
    ((s.bus b).phase = .hold → (s.bus b).timer = s.params.raw.tHold → (u.bus b).phase ≠ .hold →
      s.params.raw.tHold ≤ ticksIn b is) ∧
    (let i := (s.params.bus b).flagIdx.index
     let m := (s.bus b).seqMask
     (s.bus b).phase = .set → (s.bus b).img.wf = true → (s.bus b).img.read i &&& m = m → (u.bus b).img.read i &&& m ≠ m →
      s.params.raw.tAssert + s.params.raw.tHold ≤ ticksIn b is ∧
      s.params.raw.pollMin < ticksIn b is * s.params.raw.tickTime)

/-! ### What only some instructions may do -/

/-- R155: an image byte changes only by RESET, by CFG, by ACTIVATE in the flag byte, or by STEP at the end of HOLD in the flag
byte; every other byte reads as before. -/
def Obligations.OnlyFourRulesWriteTheImage : Prop :=
  ∀ (i : Instr) (s t : State) (b : BusId) (a : Nat), (s.bus b).img.wf = true → exec i s = .next t →
    (t.bus b).img.read a ≠ (s.bus b).img.read a →
    i = .reset ∨
    (∃ bus cls, i = .cfg bus cls ∧ BusId.ofField bus = some b ∧ a < 5) ∨
    (∃ bus mask, i = .activate bus mask ∧ BusId.ofField bus = some b ∧ a = (s.params.bus b).flagIdx.index) ∨
    (i = .step b ∧ (s.bus b).phase = .hold ∧ (s.bus b).timer = 0 ∧ a = (s.params.bus b).flagIdx.index)

/-- R28, R60, R61: a byte of the write-reassembly buffer changes only where RX_BYTE stores it, at the write index, whether the
rule is run by itself or by ISR; every other byte reads as before. -/
def Obligations.OnlyReceivedBytesWriteTheBuffer : Prop :=
  ∀ (i : Instr) (s t : State) (b : BusId) (a : Nat), (s.bus b).wbuf.wf = true → exec i s = .next t →
    (t.bus b).wbuf.read a ≠ (s.bus b).wbuf.read a →
    a = (s.bus b).widx ∧ a < s.params.raw.wbufLen ∧
    ∃ v, (t.bus b).wbuf.read a = v ∧
      (i = .evRxByte b v ∨ (i = .isr b ∧ (s.bus b).evq.head? = some (0x3000#16 ||| v.setWidth 16)))

/-- R38, R45, R73: no instruction clears UNDERRUN or REFUSED or changes the configuration, and UNDERRUN is set only by a read
slot that finds the FIFO empty while selected. -/
def Obligations.StickyMarksAndFixedConfiguration : Prop :=
  ∀ (i : Instr) (s t : State) (b : BusId), exec i s = .next t →
    (s.refused = true → t.refused = true) ∧ t.params = s.params ∧ t.schedule = s.schedule ∧
    ((s.bus b).underrun = true → (t.bus b).underrun = true) ∧
    ((s.bus b).underrun = false → (t.bus b).underrun = true →
      ∃ nack, i = .wRead b nack ∧ (s.bus b).feSel = .read ∧ (s.bus b).txf = [])

/-! ### Headlines -/

/-- The invariant of Safety.lean (R24, R26, R28 to R30, R33, R42, R46, R115, R156, R170, R184) is kept by every step from every
state that has it, whatever the environment picks. -/
def Obligations.EveryStepKeepsTheInvariant : Prop :=
  ∀ s t : State, s.Inv → step s = .next t → t.Inv

/-- The power-on state has the invariant. -/
def Obligations.PowerOnHasTheInvariant : Prop := State.reset.Inv

/-- R47, R75, R185: what a run does to a bus depends on that bus's record, on the configuration and on the instructions that
address that bus, and on nothing else: two runs that agree on these end with the same record of that bus. The whole record is compared, with the
model's own fields: that drawn bytes of two runs agree where their counts agree is the model's choice (log entry 4, unsafe across
two runs), and no rule of the spec (R10). -/
def Obligations.BusesAreIsolated : Prop :=
  ∀ (is is' : List Instr) (s s' u u' : State) (b : BusId),
    s.bus b = s'.bus b → s.params = s'.params →
    is.filter (fun i => addresses i b) = is'.filter (fun i => addresses i b) →
    execAll is s = .next u → execAll is' s' = .next u' → u.bus b = u'.bus b

/-- R153, R215, with POLL of R94: a poll of `n` bytes of a started peripheral with no event pending is acknowledged and returns
the snapshot's bytes in index order, wrapping at 5, whatever the FIFO held before and whatever its depth and threshold;
UNDERRUN and the image are unchanged, and the engine ends in (IDLE, NONE) with no event pending. DRAIN is one ISR for each event
pending at its start (log entry 13). -/
def Obligations.PollReturnsTheWrappedImage : Prop :=
  ∀ (s : State) (b : BusId) (n : Nat), 1 ≤ n → (s.bus b).engineEn = true → (s.bus b).evq = [] →
    ∃ u, runObserving b (poll b (s.bus b).ownAddr n) s = some
        (some .ack :: (List.range n).map (fun k => ((snapshot s.params b (s.bus b)).toList[k % 5]?).map WireObs.byte) ++
          [some .nothing], u) ∧
      (u.bus b).engState = .idle ∧ (u.bus b).dir = .none ∧ (u.bus b).evq = [] ∧ (u.bus b).feActive = false ∧
      (u.bus b).underrun = (s.bus b).underrun ∧ (∀ a, (u.bus b).img.read a = (s.bus b).img.read a) ∧
      u.bus b.other = s.bus b.other

/-- R216, with SEND of R94: every byte of a write to a started peripheral with no event pending is acknowledged; the first
`WBUF_LEN` of them are stored from index 0 on; and nothing else that a later read could see changes. DRAIN is one ISR for each event
pending at its start (log entry 13). -/
def Obligations.SendIsAcknowledgedAndStored : Prop :=
  ∀ (s : State) (b : BusId) (vs : List Byte), (s.bus b).engineEn = true → (s.bus b).evq = [] → (s.bus b).rxf = [] →
    (s.bus b).wbuf.wf = true →
    ∃ u, runObserving b (send b (s.bus b).ownAddr vs) s = some
        (some .ack :: List.replicate vs.length (some .ack) ++ [some .nothing], u) ∧
      (∀ a, (u.bus b).wbuf.read a =
        if a < s.params.raw.wbufLen then (vs[a]?).getD ((s.bus b).wbuf.read a) else (s.bus b).wbuf.read a) ∧
      u = s.setBus b { s.bus b with
        wbuf := (u.bus b).wbuf
        widx := min vs.length s.params.raw.wbufLen
        engState := .idle
        dir := .none
        feSel := .none
        feActive := false
        masterObs := some .nothing }
end

