-- ==== Sys2Proof/Laws/Memory.lean ====
section
/-! SUPPORT. The laws of the byte-addressed spaces: read after write, the canonical form, the size. -/

namespace Sys2Proof.Machine

@[simp] theorem Memory.read_nil (a : Nat) : Memory.read [] a = Memory.blank := rfl

theorem Memory.read_of_lt_risingFrom {lo : Nat} {m : Memory} (h : Memory.risingFrom lo m = true) {a : Nat} (ha : a < lo) :
    m.read a = Memory.blank := by
  induction m generalizing lo with
  | nil => rfl
  | cons c m ih =>
    obtain ⟨k, x⟩ := c
    simp only [Memory.risingFrom, Bool.and_eq_true, decide_eq_true_eq] at h
    have hne : a ≠ k := by omega
    simp only [Memory.read, hne, if_false]
    exact ih h.2 (by omega)

theorem Memory.risingFrom_mono {lo lo' : Nat} {m : Memory} (h : Memory.risingFrom lo m = true) (hl : lo' ≤ lo) :
    Memory.risingFrom lo' m = true := by
  cases m with
  | nil => rfl
  | cons c m =>
    obtain ⟨k, x⟩ := c
    simp only [Memory.risingFrom, Bool.and_eq_true, decide_eq_true_eq] at h ⊢
    exact ⟨⟨by omega, h.1.2⟩, h.2⟩

/-- A write to a space in canonical form reads back, and leaves every other byte alone. -/
theorem Memory.read_write_risingFrom {lo : Nat} {m : Memory} (h : Memory.risingFrom lo m = true) (a b : Nat) (v : Byte) :
    (m.write a v).read b = if b = a then v else m.read b := by
  induction m generalizing lo with
  | nil =>
    by_cases hv : v = Memory.blank
    · simp [Memory.write, hv, Memory.read]
    · by_cases hb : b = a <;> simp [Memory.write, hv, Memory.read, hb]
  | cons c m ih =>
    obtain ⟨k, x⟩ := c
    simp only [Memory.risingFrom, Bool.and_eq_true, decide_eq_true_eq] at h
    have hlow : ∀ d, d ≤ k → Memory.read m d = Memory.blank := fun d hd => Memory.read_of_lt_risingFrom h.2 (by omega)
    simp only [Memory.write]
    by_cases h1 : a < k
    · have hak : a ≠ k := by omega
      by_cases hv : v = Memory.blank <;> by_cases hb : b = a <;> simp [h1, hv, Memory.read, hak, hb, hlow a (by omega)]
    · by_cases h2 : a = k
      · subst h2
        have := hlow a (by omega)
        by_cases hv : v = Memory.blank <;> by_cases hb : b = a <;> simp [hv, hb, Memory.read, this]
      · by_cases hb : b = k
        · have : k ≠ a := fun h => h2 h.symm
          simp [h1, h2, Memory.read, hb, this]
        · simp [h1, h2, Memory.read, hb, ih h.2]

theorem Memory.read_write {m : Memory} (h : m.wf = true) (a b : Nat) (v : Byte) :
    (m.write a v).read b = if b = a then v else m.read b := Memory.read_write_risingFrom h a b v

theorem Memory.read_write_same {m : Memory} (h : m.wf = true) (a : Nat) (v : Byte) : (m.write a v).read a = v := by
  simp [Memory.read_write h]

theorem Memory.read_write_other {m : Memory} (h : m.wf = true) {a b : Nat} (hb : b ≠ a) (v : Byte) :
    (m.write a v).read b = m.read b := by
  simp [Memory.read_write h, hb]

theorem Memory.write_risingFrom {lo : Nat} {m : Memory} (h : Memory.risingFrom lo m = true) {a : Nat} (ha : lo ≤ a) (v : Byte) :
    Memory.risingFrom lo (m.write a v) = true := by
  induction m generalizing lo with
  | nil =>
    by_cases hv : v = Memory.blank
    · simp [Memory.write, hv, Memory.risingFrom]
    · simp [Memory.write, hv, Memory.risingFrom, ha]
  | cons c m ih =>
    obtain ⟨k, x⟩ := c
    simp only [Memory.risingFrom, Bool.and_eq_true, decide_eq_true_eq] at h
    simp only [Memory.write]
    by_cases h1 : a < k
    · by_cases hv : v = Memory.blank
      · simp [h1, hv, Memory.risingFrom, h]
      · have : a + 1 ≤ k := h1
        simp [h1, hv, Memory.risingFrom, h, ha, this]
    · by_cases h2 : a = k
      · subst h2
        by_cases hv : v = Memory.blank
        · simpa [hv] using Memory.risingFrom_mono h.2 (by omega)
        · simp [hv, Memory.risingFrom, h]
      · simp [h1, h2, Memory.risingFrom, h, ih h.2 (show k + 1 ≤ a by omega)]

/-- Every write keeps the canonical form. -/
theorem Memory.write_wf {m : Memory} (h : m.wf = true) (a : Nat) (v : Byte) : (m.write a v).wf = true :=
  Memory.write_risingFrom h (Nat.zero_le a) v

@[simp] theorem Memory.wf_nil : Memory.wf [] = true := rfl
@[simp] theorem Memory.within_nil (n : Nat) : Memory.within n [] = true := rfl

/-- A write inside a space stays inside it. -/
theorem Memory.write_within {n : Nat} {m : Memory} (h : Memory.within n m = true) {a : Nat} (ha : a < n) (v : Byte) :
    Memory.within n (m.write a v) = true := by
  induction m with
  | nil => by_cases hv : v = Memory.blank <;> simp [Memory.write, hv, Memory.within, ha]
  | cons c m ih =>
    obtain ⟨k, x⟩ := c
    simp only [Memory.within, List.all_cons, Bool.and_eq_true, decide_eq_true_eq] at h ih
    have ih' := ih h.2
    simp only [Memory.write]
    split
    · split <;> simp [Memory.within, h, ha]
    · split
      · split <;> simp [Memory.within, h, ha]
      · simp [Memory.within, h, ih']

theorem Memory.eq_nil_of_read_blank {lo : Nat} {m : Memory} (h : Memory.risingFrom lo m = true)
    (hr : ∀ a, m.read a = Memory.blank) : m = [] := by
  cases m with
  | nil => rfl
  | cons c m =>
    obtain ⟨k, x⟩ := c
    simp only [Memory.risingFrom, Bool.and_eq_true, decide_eq_true_eq] at h
    exact absurd (by simpa [Memory.read] using hr k) h.1.2

/-- Spaces in canonical form that read alike are equal. -/
theorem Memory.ext_risingFrom {lo lo' : Nat} {m n : Memory} (hm : Memory.risingFrom lo m = true)
    (hn : Memory.risingFrom lo' n = true) (hr : ∀ a, m.read a = n.read a) : m = n := by
  induction m generalizing lo lo' n with
  | nil => exact (Memory.eq_nil_of_read_blank hn fun a => (hr a).symm).symm
  | cons c m ih =>
    obtain ⟨k, x⟩ := c
    cases n with
    | nil => exact Memory.eq_nil_of_read_blank hm hr
    | cons d n =>
      obtain ⟨l, y⟩ := d
      simp only [Memory.risingFrom, Bool.and_eq_true, decide_eq_true_eq] at hm hn
      have hkl : k = l := by
        rcases Nat.lt_trichotomy k l with h | h | h
        · have h0 := hr k
          have : k ≠ l := by omega
          simp only [Memory.read, if_true, this, if_false] at h0
          exact absurd (h0.trans (Memory.read_of_lt_risingFrom hn.2 (by omega))) hm.1.2
        · exact h
        · have h0 := hr l
          have : l ≠ k := by omega
          simp only [Memory.read, if_true, this, if_false] at h0
          exact absurd (h0.symm.trans (Memory.read_of_lt_risingFrom hm.2 (by omega))) hn.1.2
      subst hkl
      have hxy : x = y := by simpa [Memory.read] using hr k
      subst hxy
      have : m = n := ih hm.2 hn.2 fun a => by
        by_cases h : a = k
        · subst h
          rw [Memory.read_of_lt_risingFrom hm.2 (by omega), Memory.read_of_lt_risingFrom hn.2 (by omega)]
        · simpa [Memory.read, h] using hr a
      rw [this]

/-- A space in canonical form that lies in `n` bytes reads blank from `n` on. -/
theorem Memory.read_outside {n : Nat} {m : Memory} (h : Memory.within n m = true) {a : Nat} (ha : n ≤ a) :
    m.read a = Memory.blank := by
  induction m with
  | nil => rfl
  | cons c m ih =>
    obtain ⟨k, x⟩ := c
    simp only [Memory.within, List.all_cons, Bool.and_eq_true, decide_eq_true_eq] at h ih
    have : a ≠ k := by omega
    simp [Memory.read, this, ih h.2]

/-! ### The image operations -/

theorem setFlagBits_wf {m : Memory} (h : m.wf = true) (i : Nat) (k : Byte) : (setFlagBits i k m).wf = true :=
  Memory.write_wf h _ _
theorem clearFlagBits_wf {m : Memory} (h : m.wf = true) (i : Nat) (k : Byte) : (clearFlagBits i k m).wf = true :=
  Memory.write_wf h _ _

theorem writeImage_wf {m : Memory} (h : m.wf = true) (v : Image) : (writeImage v m).wf = true := by
  unfold writeImage
  exact Memory.write_wf (Memory.write_wf (Memory.write_wf (Memory.write_wf (Memory.write_wf h _ _) _ _) _ _) _ _) _ _

theorem writeImage_within {m : Memory} (h : m.within 5 = true) (v : Image) : (writeImage v m).within 5 = true := by
  unfold writeImage
  refine Memory.write_within ?_ (by decide) _
  refine Memory.write_within ?_ (by decide) _
  refine Memory.write_within ?_ (by decide) _
  refine Memory.write_within ?_ (by decide) _
  exact Memory.write_within h (by decide) _

/-- Setting flag bits writes the flag byte alone (R65). -/
theorem read_setFlagBits {m : Memory} (h : m.wf = true) (i : Nat) (k : Byte) (a : Nat) :
    (setFlagBits i k m).read a = if a = i then m.read i ||| k else m.read a := Memory.read_write h _ _ _

/-- Clearing flag bits writes the flag byte alone (R65). -/
theorem read_clearFlagBits {m : Memory} (h : m.wf = true) (i : Nat) (k : Byte) (a : Nat) :
    (clearFlagBits i k m).read a = if a = i then m.read i &&& ~~~k else m.read a := Memory.read_write h _ _ _

/-- Writing the image writes its five bytes and nothing else (R154). -/
theorem read_writeImage {m : Memory} (h : m.wf = true) (v : Image) (a : Nat) :
    (writeImage v m).read a = if ha : a < 5 then v[a] else m.read a := by
  have h0 := Memory.write_wf h 0 v[0]
  have h1 := Memory.write_wf h0 1 v[1]
  have h2 := Memory.write_wf h1 2 v[2]
  have h3 := Memory.write_wf h2 3 v[3]
  unfold writeImage
  rw [Memory.read_write h3, Memory.read_write h2, Memory.read_write h1, Memory.read_write h0, Memory.read_write h]
  by_cases ha : a < 5
  · rw [dif_pos ha]
    have : a = 0 ∨ a = 1 ∨ a = 2 ∨ a = 3 ∨ a = 4 := by omega
    rcases this with rfl | rfl | rfl | rfl | rfl <;> rfl
  · rw [dif_neg ha]
    rw [if_neg (by omega), if_neg (by omega), if_neg (by omega), if_neg (by omega), if_neg (by omega)]

/-- The snapshot's bytes are the image's bytes (R150). -/
theorem getElem_copyImage (m : Memory) (i : Nat) (h : i < 5) : (copyImage m)[i] = m.read i := by
  have : i = 0 ∨ i = 1 ∨ i = 2 ∨ i = 3 ∨ i = 4 := by omega
  rcases this with rfl | rfl | rfl | rfl | rfl <;> rfl

end Sys2Proof.Machine
end

