-- ==== Sys2Proof/Laws/State.lean ====
section
/-! SUPPORT. One lemma per field per update of State, and the laws of the per-bus accessors, so that no proof unfolds an update. -/

namespace Sys2Proof.Machine

/-! ### Buses -/

@[simp] theorem BusId.ofBit_bit (b : BusId) : BusId.ofBit b.bit = b := by cases b <;> rfl

@[simp] theorem BusId.other_ne (b : BusId) : b.other ≠ b := by cases b <;> decide

theorem BusId.eq_or_eq_other (b c : BusId) : c = b ∨ c = b.other := by cases b <;> cases c <;> decide

@[simp] theorem BusId.ofField_bit (b : BusId) : BusId.ofField (0#3 ++ b.bit) = some b := by cases b <;> decide

/-! ### Reading back a record -/

@[simp] theorem State.bus_setBus_same (s : State) (b : BusId) (x : BusState) : (s.setBus b x).bus b = x := by
  cases b <;> rfl

theorem State.bus_setBus_other (s : State) {b c : BusId} (x : BusState) (h : c ≠ b) : (s.setBus b x).bus c = s.bus c := by
  cases b <;> cases c <;> first | rfl | exact absurd rfl h

@[simp] theorem State.setBus_bus (s : State) (b : BusId) : s.setBus b (s.bus b) = s := by cases b <;> rfl

@[simp] theorem State.setBus_setBus (s : State) (b : BusId) (x y : BusState) : (s.setBus b x).setBus b y = s.setBus b y := by
  cases b <;> rfl

@[simp] theorem State.bus_onBus_same (s : State) (b : BusId) (f : BusState → BusState) :
    (s.onBus b f).bus b = f (s.bus b) := State.bus_setBus_same s b _

theorem State.bus_onBus_other (s : State) {b c : BusId} (f : BusState → BusState) (h : c ≠ b) :
    (s.onBus b f).bus c = s.bus c := State.bus_setBus_other s _ h

@[simp] theorem State.bus_reply (s : State) (r : CmdResult) (b : BusId) : (s.reply r).bus b = s.bus b := by cases b <;> rfl

@[simp] theorem State.bus_markRefused (s : State) (b : BusId) : s.markRefused.bus b = s.bus b := by cases b <;> rfl

@[simp] theorem State.bus_schedule (s : State) (q : List Pick) (b : BusId) : ({ s with schedule := q } : State).bus b = s.bus b := by
  cases b <;> rfl

@[simp] theorem State.bus_offer (s : State) (p : Pick) (b : BusId) : (s.offer p).bus b = s.bus b := by cases b <;> rfl

@[simp] theorem State.bus_pickNext (s : State) (p : Pick) (b : BusId) : (s.pickNext p).bus b = s.bus b := by cases b <;> rfl

@[simp] theorem State.bus_resetWith (c : Params) (b : BusId) : (State.resetWith c).bus b = BusState.reset := by cases b <;> rfl

/-- A state is its two records and its global fields. -/
theorem State.ext_bus {s t : State} (hb : ∀ b, s.bus b = t.bus b) (hr : s.refused = t.refused) (hp : s.params = t.params)
    (hs : s.schedule = t.schedule) (hc : s.cmdResult = t.cmdResult) : s = t := by
  have h0 := hb .b0
  have h1 := hb .b1
  cases s
  cases t
  simp only [State.bus] at h0 h1
  simp_all

/-! ### Global fields under each update -/

@[simp] theorem State.refused_setBus (s : State) (b : BusId) (x : BusState) : (s.setBus b x).refused = s.refused := by
  cases b <;> rfl
@[simp] theorem State.params_setBus (s : State) (b : BusId) (x : BusState) : (s.setBus b x).params = s.params := by
  cases b <;> rfl
@[simp] theorem State.schedule_setBus (s : State) (b : BusId) (x : BusState) : (s.setBus b x).schedule = s.schedule := by
  cases b <;> rfl
@[simp] theorem State.cmdResult_setBus (s : State) (b : BusId) (x : BusState) : (s.setBus b x).cmdResult = s.cmdResult := by
  cases b <;> rfl

@[simp] theorem State.refused_onBus (s : State) (b : BusId) (f : BusState → BusState) : (s.onBus b f).refused = s.refused :=
  State.refused_setBus s b _
@[simp] theorem State.params_onBus (s : State) (b : BusId) (f : BusState → BusState) : (s.onBus b f).params = s.params :=
  State.params_setBus s b _
@[simp] theorem State.schedule_onBus (s : State) (b : BusId) (f : BusState → BusState) : (s.onBus b f).schedule = s.schedule :=
  State.schedule_setBus s b _
@[simp] theorem State.cmdResult_onBus (s : State) (b : BusId) (f : BusState → BusState) : (s.onBus b f).cmdResult = s.cmdResult :=
  State.cmdResult_setBus s b _

@[simp] theorem State.refused_reply (s : State) (r : CmdResult) : (s.reply r).refused = s.refused := rfl
@[simp] theorem State.params_reply (s : State) (r : CmdResult) : (s.reply r).params = s.params := rfl
@[simp] theorem State.schedule_reply (s : State) (r : CmdResult) : (s.reply r).schedule = s.schedule := rfl
@[simp] theorem State.cmdResult_reply (s : State) (r : CmdResult) : (s.reply r).cmdResult = some r := rfl

@[simp] theorem State.refused_markRefused (s : State) : s.markRefused.refused = true := rfl
@[simp] theorem State.params_markRefused (s : State) : s.markRefused.params = s.params := rfl
@[simp] theorem State.schedule_markRefused (s : State) : s.markRefused.schedule = s.schedule := rfl
@[simp] theorem State.cmdResult_markRefused (s : State) : s.markRefused.cmdResult = s.cmdResult := rfl

/-! ### Fields of a bus under the shared updates that write one or two of them -/

@[simp] theorem BusState.evq_raise (x : BusState) (w : BitVec 16) : (x.raise w).evq = x.evq ++ [w] := rfl
@[simp] theorem BusState.masterObs_observe (x : BusState) (o : WireObs) : (x.observe o).masterObs = some o := rfl
@[simp] theorem BusState.evq_takeEvent (x : BusState) : x.takeEvent.evq = x.evq.tail := rfl
@[simp] theorem BusState.engState_toIdle (x : BusState) : x.toIdle.engState = .idle := rfl
@[simp] theorem BusState.dir_toIdle (x : BusState) : x.toIdle.dir = .none := rfl
@[simp] theorem BusState.engState_toAddressed (d : Dir) (x : BusState) : (x.toAddressed d).engState = .addressed := rfl
@[simp] theorem BusState.dir_toAddressed (d : Dir) (x : BusState) : (x.toAddressed d).dir = d := rfl
@[simp] theorem BusState.engState_toTransferring (x : BusState) : x.toTransferring.engState = .transferring := rfl
@[simp] theorem BusState.rxf_drainRx (x : BusState) : x.drainRx.rxf = x.rxf.tail := rfl
@[simp] theorem BusState.draws_drawn (x : BusState) : x.drawn.draws = x.draws + 1 := rfl
@[simp] theorem BusState.txf_push (x : BusState) (s : Image) (n : Nat) : (x.push s n).txf = x.txf ++ served s x.rp.val n := rfl
@[simp] theorem BusState.rp_push (x : BusState) (s : Image) (n : Nat) : (x.push s n).rp.val = (x.rp.val + n) % 5 := rfl

/-- Raising an event writes the event queue alone. -/
theorem BusState.raise_eq (x : BusState) (w : BitVec 16) : x.raise w = { x with evq := x.evq ++ [w] } := rfl
/-- Observing writes the master's observation alone. -/
theorem BusState.observe_eq (x : BusState) (o : WireObs) : x.observe o = { x with masterObs := some o } := rfl
/-- Taking an event writes the event queue alone. -/
theorem BusState.takeEvent_eq (x : BusState) : x.takeEvent = { x with evq := x.evq.tail } := rfl
/-- Returning to idle writes the engine state and the direction alone. -/
theorem BusState.toIdle_eq (x : BusState) : x.toIdle = { x with engState := .idle, dir := .none } := rfl
/-- Entering a transaction writes the engine state and the direction alone. -/
theorem BusState.toAddressed_eq (d : Dir) (x : BusState) : x.toAddressed d = { x with dir := d, engState := .addressed } := rfl
/-- Moving bytes writes the engine state alone. -/
theorem BusState.toTransferring_eq (x : BusState) : x.toTransferring = { x with engState := .transferring } := rfl
/-- Draining writes the receive FIFO alone. -/
theorem BusState.drainRx_eq (x : BusState) : x.drainRx = { x with rxf := x.rxf.tail } := rfl
/-- Drawing a byte advances the count of draws alone. -/
theorem BusState.drawn_eq (x : BusState) : x.drawn = { x with draws := x.draws + 1 } := rfl

end Sys2Proof.Machine
end

