-- ==== Sys2Proof/Laws/Ops.lean ====
section
/-! SUPPORT. For each shared operation, one lemma that says once everything it can do. -/

namespace Sys2Proof.Machine

/-! ### Bytes served from a snapshot -/

@[simp] theorem length_served (s : Image) (start n : Nat) : (served s start n).length = n := by simp [served]

/-- Byte `k` of a push batch is the snapshot's byte at the start plus `k`, mod 5 (R152). -/
theorem getElem_served (s : Image) (start n k : Nat) (h : k < (served s start n).length) :
    (served s start n)[k] = s[(start + k) % 5]'(Nat.mod_lt _ (by decide)) := by simp [served]

@[simp] theorem served_zero (s : Image) (start : Nat) : served s start 0 = [] := rfl

/-- Serving `m + n` bytes is serving `m`, then `n` from where the first batch stopped. -/
theorem served_add (s : Image) (start m n : Nat) : served s start (m + n) = served s start m ++ served s ((start + m) % 5) n := by
  apply List.ext_getElem
  · simp
  · intro i h1 h2
    rw [List.getElem_append]
    simp only [length_served] at h1 ⊢
    split
    · simp [served]
    · next hlt =>
      simp only [served, List.getElem_map, List.getElem_range]
      congr 1
      omega

/-- The pointer may be reduced mod 5 first. -/
theorem served_mod (s : Image) (start n : Nat) : served s (start % 5) n = served s start n := by
  apply List.ext_getElem
  · simp
  · intro i h1 h2
    simp only [served, List.getElem_map, List.getElem_range]
    congr 1
    omega

/-! ### Commands -/

theorem BusId.ofField_eq_some {v : BitVec 4} {b : BusId} : BusId.ofField v = some b ↔ v = 0#3 ++ b.bit := by
  revert v
  cases b <;> decide

/-- ACTIVATE is accepted exactly when the four checks of R172 pass. -/
theorem acceptActivate_ok {s : State} {bus : BitVec 4} {mask : Byte} {b : BusId} :
    acceptActivate s bus mask = .ok b ↔
      BusId.ofField bus = some b ∧ (s.bus b).engineEn = true ∧ (s.bus b).configured = true ∧ (s.bus b).phase = .idle ∧
      maskValid (s.params.bus b).defined mask = true := by
  unfold acceptActivate
  cases h : BusId.ofField bus with
  | none => simp
  | some c =>
    by_cases hcb : c = b
    · subst hcb
      simp only [true_and]
      by_cases h1 : (s.bus c).engineEn <;> by_cases h2 : (s.bus c).configured <;> by_cases h3 : (s.bus c).phase = .idle <;>
        by_cases h4 : maskValid (s.params.bus c).defined mask <;> simp [h1, h2, h3, h4, BusState.busy]
    · simp only [Option.some.injEq, hcb, false_and, iff_false]
      repeat' split
      all_goals simp_all

/-- A mask is valid exactly when it is not 0 and has no bit outside the table (R172 check 4). -/
theorem maskValid_iff {defined mask : Byte} : maskValid defined mask = true ↔ mask ≠ 0#8 ∧ mask &&& ~~~defined = 0#8 := by
  simp [maskValid]

/-! ### Handler steps -/

/-- Everything an ISR step can do: nothing, a refusal, or the rule of the oldest event run after that event is taken (R110). -/
theorem execIsr_cases (b : BusId) (s : State) :
    ((s.bus b).evq = [] ∧ execIsr b s = .next s) ∨
    (∃ w rest r, (s.bus b).evq = w :: rest ∧ decodeEvent w = .error r ∧ execIsr b s = .next s.markRefused) ∨
    (∃ w rest e, (s.bus b).evq = w :: rest ∧ decodeEvent w = .ok e ∧
      execIsr b s = handleEvent b e (s.onBus b BusState.takeEvent)) := by
  unfold execIsr
  cases hq : (s.bus b).evq with
  | nil => exact .inl ⟨rfl, rfl⟩
  | cons w rest =>
    cases hd : decodeEvent w with
    | error r => exact .inr (.inl ⟨w, rest, r, rfl, hd, by simp [hd]⟩)
    | ok e => exact .inr (.inr ⟨w, rest, e, rfl, hd, by simp [hd]⟩)

/-- The rule an event selects is the meaning of the event's instruction (R110). -/
theorem handleEvent_eq_exec (b : BusId) (e : Event) (s : State) : handleEvent b e s = exec (e.instr b) s := by
  cases e <;> rfl

/-- The effect of an event rule on its bus's record (R112 to R120). -/
def eventEffect (c : Params) (b : BusId) : Event → BusState → BusState
  | .addrR _ => onAddressRead c b
  | .addrW _ => onAddressWrite
  | .txLow _ => onTxLow c b
  | .rxByte v => onRxByte c v
  | .stop => BusState.toIdle
  | .errArb => BusState.toIdle
  | .errNack => BusState.toIdle
  | .errTimeout => BusState.toIdle
  | .errOvf => BusState.toIdle

/-- Storing a received byte writes the buffer and the index alone (R115). -/
theorem BusState.storeRx_eq (c : Params) (v : Byte) (x : BusState) :
    x.storeRx c v = { x with
      wbuf := if x.widx < c.raw.wbufLen then x.wbuf.write x.widx v else x.wbuf
      widx := if x.widx < c.raw.wbufLen then x.widx + 1 else x.widx } := by
  unfold BusState.storeRx
  split <;> rfl

/-- RX_BYTE inside a write transaction (R115). -/
theorem onRxByte_inside {c : Params} {x : BusState} (v : Byte) (h : x.dir = .write ∧ x.engState ≠ .idle) :
    onRxByte c v x = { x with
      rxf := x.rxf.tail
      wbuf := if x.widx < c.raw.wbufLen then x.wbuf.write x.widx v else x.wbuf
      widx := if x.widx < c.raw.wbufLen then x.widx + 1 else x.widx
      engState := .transferring } := by
  rw [onRxByte, if_pos h, BusState.storeRx_eq]
  rfl

/-- RX_BYTE outside a write transaction (R115). -/
theorem onRxByte_outside {c : Params} {x : BusState} (v : Byte) (h : ¬(x.dir = .write ∧ x.engState ≠ .idle)) :
    onRxByte c v x = { x with rxf := x.rxf.tail } := by
  rw [onRxByte, if_neg h]
  rfl

/-- TX_LOW inside a read transaction (R114). -/
theorem onTxLow_inside {c : Params} {b : BusId} {x : BusState} (h : x.dir = .read ∧ x.engState ≠ .idle) :
    onTxLow c b x = { x.push (snapshot c b x) (c.raw.txDepth - x.txf.length) with engState := .transferring } := by
  rw [onTxLow, if_pos h]
  rfl

/-- TX_LOW outside a read transaction (R114). -/
theorem onTxLow_outside {c : Params} {b : BusId} {x : BusState} (h : ¬(x.dir = .read ∧ x.engState ≠ .idle)) :
    onTxLow c b x = x := by
  rw [onTxLow, if_neg h]

/-- What no event rule writes: the image, the sequencer's fields, the front end's fields and the queue of events (R124, R240). -/
theorem eventEffect_frame (c : Params) (b : BusId) (e : Event) (x : BusState) :
    let y := eventEffect c b e x
    y.img = x.img ∧ y.phase = x.phase ∧ y.seqMask = x.seqMask ∧ y.timer = x.timer ∧ y.attn = x.attn ∧
    y.configured = x.configured ∧ y.ownAddr = x.ownAddr ∧ y.engineEn = x.engineEn ∧ y.feSel = x.feSel ∧
    y.feActive = x.feActive ∧ y.underrun = x.underrun ∧ y.draws = x.draws ∧ y.masterObs = x.masterObs ∧ y.evq = x.evq := by
  cases e
  case txLow n => simp only [eventEffect, onTxLow]; split <;> simp [BusState.push, BusState.toTransferring]
  case rxByte v => simp only [eventEffect, onRxByte]; split <;> simp [BusState.storeRx_eq, BusState.drainRx, BusState.toTransferring]
  all_goals simp [eventEffect, onAddressRead, onAddressWrite, BusState.push, BusState.toIdle, BusState.toAddressed]

/-- Every event rule answers a next state in which it has changed its own bus's record alone. -/
theorem handleEvent_eq (b : BusId) (e : Event) (s : State) : handleEvent b e s = .next (s.onBus b (eventEffect s.params b e)) := by
  cases e <;> rfl

/-! ### Front end -/

/-- The EV layout as the rules of file 43 write it: the code in the top bits, OR the data (R81). -/
theorem evWord_eq_or {c : BitVec 4} {k : BitVec 16} (hk : k = c ++ 0#12) (d : Byte) : evWord c d = k ||| d.setWidth 16 := by
  subst hk
  apply BitVec.eq_of_getLsbD_eq
  intro i hi
  simp only [evWord, BitVec.getLsbD_or, BitVec.getLsbD_append, BitVec.getLsbD_setWidth]
  interval_cases i <;> simp

/-- R201, R203: the word an address match raises. -/
theorem evAddress_eq (d : Byte) : evAddress d = 0x1000#16 ||| d.setWidth 16 := evWord_eq_or (by decide) d

/-- R204: the word a received byte raises. -/
theorem evRxByteWord_eq (v : Byte) : evRxByteWord v = 0x3000#16 ||| v.setWidth 16 := evWord_eq_or (by decide) v

/-- R207: the word a crossing of the threshold raises; the free space fits in 8 bits (R82). -/
theorem evTxLowWord_eq {n : Nat} (h : n ≤ 255) : evTxLowWord n = 0x2000#16 ||| BitVec.ofNat 16 n := by
  rw [evTxLowWord, evWord_eq_or (k := 0x2000#16) (by decide)]
  congr 1
  apply BitVec.eq_of_toNat_eq
  simp
  omega

/-- What each word the front end raises decodes to (R82). -/
theorem decodeEvent_addressR (a : BitVec 7) : decodeEvent (evAddress (addressByte a 1#1)) = .ok (.addrR a) := by
  revert a; decide
theorem decodeEvent_addressW (a : BitVec 7) : decodeEvent (evAddress (addressByte a 0#1)) = .ok (.addrW a) := by
  revert a; decide
theorem decodeEvent_rxByte (v : Byte) : decodeEvent (evRxByteWord v) = .ok (.rxByte v) := by revert v; decide
theorem decodeEvent_txLow (d : Byte) (h : d ≠ 0#8) : decodeEvent (evWord 0x2#4 d) = .ok (.txLow d) := by revert d; decide

/-- With stretching off, or with no event pending, the bus does not hold the master (R211). -/
theorem BusState.stretchHold_false {c : Params} {x : BusState} (h : x.evq = [] ∨ c.raw.stretch = false) :
    x.stretchHold c = false := by rcases h with h | h <;> simp [BusState.stretchHold, h]

/-- Everything the byte of a read slot can do (R206). -/
theorem takeReadByte_cases (b : BusId) (x : BusState) :
    (∃ v rest, x.txf = v :: rest ∧ takeReadByte b x = (v, { x with txf := rest })) ∨
    (x.txf = [] ∧ takeReadByte b x = (nextDraw b x, { x with draws := x.draws + 1, underrun := true })) := by
  unfold takeReadByte
  cases h : x.txf with
  | nil => exact .inr ⟨rfl, by simp [BusState.drawn, h]⟩
  | cons v rest => exact .inl ⟨v, rest, rfl, rfl⟩

/-- A W symbol that the bus does not hold is taken (R211). -/
theorem onWire_taken {s : State} {b : BusId} (f : BusState → BusState) (h : (s.bus b).stretchHold s.params = false) :
    onWire s b f = s.onBus b f := by simp [onWire, h]

/-- A W symbol that the bus holds changes nothing (R211). -/
theorem onWire_held {s : State} {b : BusId} (f : BusState → BusState) (h : (s.bus b).stretchHold s.params = true) :
    onWire s b f = s := by simp [onWire, h]

/-! ### Runs -/

@[simp] theorem execAll_nil (s : State) : execAll [] s = .next s := rfl

/-- A run of `i :: is` that ends in `u` passes through a state after `i`. -/
theorem execAll_cons_next {i : Instr} {is : List Instr} {s u : State} :
    execAll (i :: is) s = .next u ↔ ∃ t, exec i s = .next t ∧ execAll is t = .next u := by
  simp only [execAll]
  cases exec i s with
  | next t => simp
  | fault r => simp
  | refused r => simp

end Sys2Proof.Machine
end

