-- ==== Sys2Proof/Laws/PerInstr.lean ====
section
/-! SUPPORT. Statements made per instruction: the word of every well-formed instruction belongs to the instruction's own row of
the opcode table (R82, R84, R87, R90). -/

namespace Sys2Proof.Laws.MatchesRow

/-- The word of `i` belongs to the row of `i`. -/
def Statement (i : Instr) : Prop := WellFormed i = true → (rowOf i).holds (encode i) = true

theorem evAddrR (b : BusId) (a : BitVec 7) : Statement (.evAddrR b a) := by
  intro _; revert a; cases b <;> decide
theorem evAddrW (b : BusId) (a : BitVec 7) : Statement (.evAddrW b a) := by
  intro _; revert a; cases b <;> decide
theorem evTxLow (b : BusId) (n : Byte) : Statement (.evTxLow b n) := by
  unfold Statement; revert n; cases b <;> decide
theorem evRxByte (b : BusId) (v : Byte) : Statement (.evRxByte b v) := by
  intro _; revert v; cases b <;> decide
theorem evStop (b : BusId) : Statement (.evStop b) := by cases b <;> exact fun _ => by decide
theorem evErrArb (b : BusId) : Statement (.evErrArb b) := by cases b <;> exact fun _ => by decide
theorem evErrNack (b : BusId) : Statement (.evErrNack b) := by cases b <;> exact fun _ => by decide
theorem evErrTimeout (b : BusId) : Statement (.evErrTimeout b) := by cases b <;> exact fun _ => by decide
theorem evErrOvf (b : BusId) : Statement (.evErrOvf b) := by cases b <;> exact fun _ => by decide
theorem wStartR (b : BusId) (a : BitVec 7) : Statement (.wStartR b a) := by
  intro _; revert a; cases b <;> decide
theorem wStartW (b : BusId) (a : BitVec 7) : Statement (.wStartW b a) := by
  intro _; revert a; cases b <;> decide
theorem wWrite (b : BusId) (v : Byte) : Statement (.wWrite b v) := by
  intro _; revert v; cases b <;> decide
theorem wRead (b : BusId) (nack : Bool) : Statement (.wRead b nack) := by
  cases b <;> cases nack <;> exact fun _ => by decide
theorem wStop (b : BusId) : Statement (.wStop b) := by cases b <;> exact fun _ => by decide

/-- The op of a CMD word, under the mask of its top four bits, whatever the bus and the payload. -/
theorem cmdWord_op (op bus : BitVec 4) (p : Byte) : cmdWord op bus p &&& 0xF000#16 = op ++ 0#12 := by
  apply BitVec.eq_of_getLsbD_eq
  intro i hi
  simp only [cmdWord, BitVec.getLsbD_and, BitVec.getLsbD_append]
  interval_cases i <;> simp

theorem activate (bus : BitVec 4) (m : Byte) : Statement (.activate bus m) := by
  intro _
  simp [Row.holds, rowOf, encode, PortWord.format, PortWord.bits, cmdWord_op]
theorem cfg (bus : BitVec 4) (c : Byte) : Statement (.cfg bus c) := by
  intro _
  simp [Row.holds, rowOf, encode, PortWord.format, PortWord.bits, cmdWord_op]
theorem start (bus : BitVec 4) (a : BitVec 7) : Statement (.start bus a) := by
  intro _
  have h : cmdWord 0x3#4 bus (0#1 ++ a) &&& 0xF080#16 = 0x3000#16 := by
    apply BitVec.eq_of_getLsbD_eq
    intro i hi
    simp only [cmdWord, BitVec.getLsbD_and, BitVec.getLsbD_append]
    interval_cases i <;> simp
  simp [Row.holds, rowOf, encode, PortWord.format, PortWord.bits, h]

theorem reset : Statement .reset := fun _ => by decide
theorem tick (b : BusId) : Statement (.tick b) := by cases b <;> exact fun _ => by decide
theorem step (b : BusId) : Statement (.step b) := by cases b <;> exact fun _ => by decide
theorem isr (b : BusId) : Statement (.isr b) := by cases b <;> exact fun _ => by decide
theorem xArb (b : BusId) : Statement (.xArb b) := by cases b <;> exact fun _ => by decide
theorem xTimeout (b : BusId) : Statement (.xTimeout b) := by cases b <;> exact fun _ => by decide

end Sys2Proof.Laws.MatchesRow
end

