-- ==== Sys2Proof/Machine/Assembler.lean ====
section
/-! DEFINITION. The assembler spelling of an instruction (R93). EV words are never written by a program: in a trace they appear
as the kind and the data. -/

namespace Sys2Proof.Machine

/-- The bus operand (R93). -/
def asmBus : BusId → String
  | .b0 => "0"
  | .b1 => "1"

/-- A mnemonic with its operands, separated by commas; numbers are decimal (R93; DESIGN CHOICE, log entry 14, safe). -/
def asmLine (mnemonic : String) : List String → String
  | [] => mnemonic
  | ops => mnemonic ++ " " ++ ", ".intercalate ops

/-- The line of an instruction (R93). -/
def asm : Instr → String
  | .evAddrR _ a => asmLine "EV.ADDR_R" [toString (2 * a.toNat + 1)]
  | .evAddrW _ a => asmLine "EV.ADDR_W" [toString (2 * a.toNat)]
  | .evTxLow _ n => asmLine "EV.TX_LOW" [toString n.toNat]
  | .evRxByte _ v => asmLine "EV.RX_BYTE" [toString v.toNat]
  | .evStop _ => asmLine "EV.STOP" ["0"]
  | .evErrArb _ => asmLine "EV.ERR_ARB" ["0"]
  | .evErrNack _ => asmLine "EV.ERR_NACK" ["0"]
  | .evErrTimeout _ => asmLine "EV.ERR_TIMEOUT" ["0"]
  | .evErrOvf _ => asmLine "EV.ERR_OVF" ["0"]
  | .wStartR b a => asmLine "W.START" [asmBus b, toString a.toNat, "R"]
  | .wStartW b a => asmLine "W.START" [asmBus b, toString a.toNat, "W"]
  | .wWrite b v => asmLine "W.WRITE" [asmBus b, toString v.toNat]
  | .wRead b nack => asmLine "W.READ" [asmBus b, if nack then "NACK" else "ACK"]
  | .wStop b => asmLine "W.STOP" [asmBus b]
  | .activate bus m => asmLine "ACTIVATE" [toString bus.toNat, toString m.toNat]
  | .cfg bus c => asmLine "CFG" [toString bus.toNat, toString c.toNat]
  | .start bus a => asmLine "START" [toString bus.toNat, toString a.toNat]
  | .reset => asmLine "RESET" []
  | .tick b => asmLine "TICK" [asmBus b]
  | .step b => asmLine "STEP" [asmBus b]
  | .isr b => asmLine "ISR" [asmBus b]
  | .xArb b => asmLine "X.ARB" [asmBus b]
  | .xTimeout b => asmLine "X.TIMEOUT" [asmBus b]

end Sys2Proof.Machine
end

