-- ==== Sys2Proof/Tests/Slice0.lean ====
section
/-! SUPPORT. Small tests. Expected words and results are those of file 95 of the spec (the vector's id is in each docstring) or
are worked by hand from the rule named. The last part shows, for every obligation with hypotheses, a case that meets them. -/

namespace Sys2Proof.Tests

open Sys2Proof Sys2Proof.Machine

/-! ### Helpers -/

/-- The outcome is a next state with the property. -/
def gives (o : StepOutcome) (p : State → Bool) : Bool :=
  match o with
  | .next t => p t
  | .fault _ => false
  | .refused _ => false

/-- Configuration E with a FIFO deeper than the image (vector D-2). -/
def deepFifo : Params where
  raw := { Config.vectorE.raw with txDepth := 8, txLowThresh := 2 }
  sizes := by decide
  timing := by decide

/-- Configuration E without a write-reassembly buffer (vector D-13). -/
def noBuffer : Params where
  raw := { Config.vectorE.raw with wbufLen := 0 }
  sizes := by decide
  timing := by decide

/-- Configuration E with clock stretching (vector F-17). -/
def stretched : Params where
  raw := { Config.vectorE.raw with stretch := true }
  sizes := by decide
  timing := by decide

/-- Configuration E with the flag byte of bus 1 at index 2 (vector S-19) and the constants of bus 0 not zero (vector M-2). -/
def flag2 : Params where
  raw := { Config.vectorE.raw with
    bus0 := { k3 := 0x5A#8, k4 := 0xA5#8 }
    bus1 := { defined := 0x3F#8, flagIdx := .byte2, attnEn := false, attnRelEn := true } }
  sizes := by decide
  timing := by decide

/-- A bus that is configured and started at 0x25, with image [02 08 00 00 00]. -/
def ready : BusState := { BusState.reset with
  img := [(0, 0x02#8), (1, 0x08#8)], configured := true, ownAddr := 0x25#7, engineEn := true }

/-- The same bus while no press is in flight: image [02 00 00 00 00]. -/
def idle : BusState := { ready with img := [(0, 0x02#8)] }

/-- The same bus in the HOLD phase of a press of 0x08. -/
def holding (timer : Nat) : BusState := { ready with phase := .hold, seqMask := 0x08#8, timer := timer }

/-- The machine under a configuration, with bus 0 as given and bus 1 as after reset. -/
def under (c : Params) (x : BusState) : State := (State.resetWith c).setBus .b0 x

/-- The same under configuration E. -/
def on0 (x : BusState) : State := under Config.vectorE x

/-- The machine under configuration E with both buses as given. -/
def both (x y : BusState) : State := (on0 x).setBus .b1 y

/-! ### Well-formedness -/

/-- R83: an event of free space 0 has no word. -/
theorem test_wf_refuses_txLow_zero : WellFormed (.evTxLow .b1 0#8) = false := by decide
theorem test_wf_event_refuses_txLow_zero : Event.wellFormed (.txLow 0#8) = false := by decide
theorem test_wf_accepts_txLow_one : WellFormed (.evTxLow .b1 1#8) = true := by decide

/-! ### Decoding -/

/-- E-1, E-2. -/
theorem test_decode_evAddrR : decode (.ev .b0 0x104B#16) = .ok (.evAddrR .b0 0x25#7) := by decide
theorem test_decode_evAddrW : decode (.ev .b0 0x104A#16) = .ok (.evAddrW .b0 0x25#7) := by decide
/-- E-3, E-4. -/
theorem test_decode_evTxLow : decode (.ev .b1 0x2003#16) = .ok (.evTxLow .b1 0x03#8) := by decide
theorem test_decode_evTxLow_zero : decode (.ev .b1 0x2000#16) = .error .evWord := by decide
/-- E-5, E-6, E-7. -/
theorem test_decode_evRxByte : decode (.ev .b1 0x3041#16) = .ok (.evRxByte .b1 0x41#8) := by decide
theorem test_decode_evStop : decode (.ev .b0 0x4000#16) = .ok (.evStop .b0) := by decide
theorem test_decode_evStop_data : decode (.ev .b0 0x4001#16) = .error .evWord := by decide
/-- E-8. -/
theorem test_decode_evErrArb : decode (.ev .b0 0x8000#16) = .ok (.evErrArb .b0) := by decide
theorem test_decode_evErrNack : decode (.ev .b0 0x9000#16) = .ok (.evErrNack .b0) := by decide
theorem test_decode_evErrTimeout : decode (.ev .b0 0xA000#16) = .ok (.evErrTimeout .b0) := by decide
theorem test_decode_evErrOvf : decode (.ev .b0 0xB000#16) = .ok (.evErrOvf .b0) := by decide
/-- E-9, E-10. -/
theorem test_decode_ev_reserved :
    [0x0000#16, 0x5000#16, 0x7000#16, 0xC000#16, 0xF000#16, 0x1100#16].map (fun w => decode (.ev .b0 w)) =
      List.replicate 6 (.error .evWord) := by decide
/-- E-11, E-12. -/
theorem test_decode_activate : decode (.cmd 0x1008#16) = .ok (.activate 0#4 0x08#8) := by decide
theorem test_decode_activate_no_bus : decode (.cmd 0x1208#16) = .ok (.activate 2#4 0x08#8) := by decide
/-- E-13, E-14, E-15. -/
theorem test_decode_cfg : decode (.cmd 0x2106#16) = .ok (.cfg 1#4 0x06#8) := by decide
theorem test_decode_start : decode (.cmd 0x3125#16) = .ok (.start 1#4 0x25#7) := by decide
theorem test_decode_start_bit7 : decode (.cmd 0x30A5#16) = .error .cmdWord := by decide
/-- E-16, E-17, E-18. -/
theorem test_decode_reset : decode (.cmd 0xF000#16) = .ok .reset := by decide
theorem test_decode_cmd_reserved :
    [0xF001#16, 0xF100#16, 0x0000#16, 0x4000#16, 0xE123#16].map (fun w => decode (.cmd w)) =
      List.replicate 5 (.error .cmdWord) := by decide
/-- E-19. -/
theorem test_decode_tick : decode (.sq 0x10#8) = .ok (.tick .b0) := by decide
theorem test_decode_step : decode (.sq 0x21#8) = .ok (.step .b1) := by decide
theorem test_decode_isr : decode (.sq 0x31#8) = .ok (.isr .b1) := by decide
theorem test_decode_xArb : decode (.sq 0x40#8) = .ok (.xArb .b0) := by decide
theorem test_decode_xTimeout : decode (.sq 0x51#8) = .ok (.xTimeout .b1) := by decide
/-- E-20. -/
theorem test_decode_sq_reserved :
    [0x12#8, 0x00#8, 0x60#8, 0xF0#8].map (fun w => decode (.sq w)) = List.replicate 4 (.error .sqWord) := by decide
/-- E-21, E-22, and the words of section 0 for W. -/
theorem test_decode_wStartR : decode (.wire .b0 0x04B#10) = .ok (.wStartR .b0 0x25#7) := by decide
theorem test_decode_wStartR_top : decode (.wire .b0 0x0FF#10) = .ok (.wStartR .b0 0x7F#7) := by decide
theorem test_decode_wStartW : decode (.wire .b1 0x060#10) = .ok (.wStartW .b1 0x30#7) := by decide
/-- E-23, E-24, E-26. -/
theorem test_decode_wWrite : decode (.wire .b0 0x141#10) = .ok (.wWrite .b0 0x41#8) := by decide
theorem test_decode_wRead_ack : decode (.wire .b0 0x200#10) = .ok (.wRead .b0 false) := by decide
theorem test_decode_wRead_nack : decode (.wire .b0 0x201#10) = .ok (.wRead .b0 true) := by decide
theorem test_decode_wStop : decode (.wire .b1 0x300#10) = .ok (.wStop .b1) := by decide
/-- E-25. -/
theorem test_decode_w_reserved :
    [0x202#10, 0x3FF#10].map (fun w => decode (.wire .b0 w)) = List.replicate 2 (.error .wireSymbol) := by decide
/-- The table has 23 rows, and no two have the same mnemonic. -/
theorem test_rows : opcodeRows.length = 23 ∧ (opcodeRows.map Row.mnemonic).Nodup := by decide
/-- Log entry 8: bare table words. -/
theorem test_decodeTableWord :
    decodeTableWord 16 0x104B = some (.evAddrR .b0 0x25#7) ∧ decodeTableWord 16 0x1208 = some (.activate 2#4 0x08#8) ∧
    decodeTableWord 16 0x004B = some (.wStartR .b0 0x25#7) ∧ decodeTableWord 16 0xF000 = some .reset ∧
    decodeTableWord 8 0x51 = some (.xTimeout .b1) ∧ decodeTableWord 8 0x60 = none := by decide

/-! ### Defaults, result codes and the register map -/

/-- R7: the release durations default to those of the press, whatever these are. -/
theorem test_release_defaults :
    let r : RawParams := { tAssert := 7, tHold := 9 }
    r.tRassert = 7 ∧ r.tRhold = 9 := by decide

/-- R88. -/
theorem test_result_codes : [CmdResult.ok, .busUnavailable, .busy, .invalidMask].map CmdResult.code = [0#8, 1#8, 2#8, 3#8] := by
  decide
/-- R42: fields by their number. -/
theorem test_field_numbers :
    (on0 ready).field .b0 0x01 = some [8] ∧ (on0 ready).field .b0 0x06 = some [0x25] ∧
    (on0 (holding 3)).field .b0 0x12 = some [3] ∧ (on0 ready).field .b0 0x0C = some [0, 0, 0] ∧ (on0 ready).field .b0 0x18 = none := by
  decide

/-! ### Dispatcher -/

/-- D-1: stale bytes are flushed. -/
theorem test_evAddrR_flushes_and_fills :
    gives (exec (.evAddrR .b0 0x25#7) (on0 { ready with txf := [0xAA#8, 0xBB#8] })) (fun t =>
      (t.bus .b0).txf == [0x02#8, 0x08#8, 0x00#8, 0x00#8] && (t.bus .b0).rp == 4 && (t.bus .b0).engState == .addressed &&
      (t.bus .b0).dir == .read) = true := by decide
/-- D-2: a FIFO deeper than the image. -/
theorem test_evAddrR_deep_fifo :
    gives (exec (.evAddrR .b0 0x25#7) (under deepFifo ready)) (fun t =>
      (t.bus .b0).txf == [0x02#8, 0x08#8, 0x00#8, 0x00#8, 0x00#8] && (t.bus .b0).rp == 0) = true := by decide
/-- D-5. -/
theorem test_evAddrW_resets_the_index :
    gives (exec (.evAddrW .b0 0x25#7) (on0 { ready with widx := 3, txf := [0#8, 0#8], rp := 2 })) (fun t =>
      t == on0 { ready with widx := 0, txf := [0#8, 0#8], rp := 2, dir := .write, engState := .addressed }) = true := by decide
/-- D-6: the refill wraps at 5. -/
theorem test_evTxLow_wraps :
    gives (exec (.evTxLow .b0 3#8) (on0 { ready with engState := .addressed, dir := .read, txf := [0#8], rp := 4 })) (fun t =>
      (t.bus .b0).txf == [0#8, 0x00#8, 0x02#8, 0x08#8] && (t.bus .b0).rp == 2 && (t.bus .b0).engState == .transferring) = true := by
  decide
/-- D-7: nothing is free, but the state moves on. -/
theorem test_evTxLow_full :
    gives (exec (.evTxLow .b0 3#8)
      (on0 { ready with engState := .addressed, dir := .read, txf := List.replicate 4 0#8, rp := 4 })) (fun t =>
        t == on0 { ready with engState := .transferring, dir := .read, txf := List.replicate 4 0#8, rp := 4 }) = true := by decide
/-- D-10. -/
theorem test_evRxByte_stores :
    gives (exec (.evRxByte .b0 0x41#8) (on0 { ready with engState := .addressed, dir := .write, rxf := [0x41#8] })) (fun t =>
      (t.bus .b0).rxf == [] && (t.bus .b0).wbuf.read 0 == 0x41#8 && (t.bus .b0).widx == 1 &&
      (t.bus .b0).engState == .transferring) = true := by decide
/-- D-13: a buffer of length 0. -/
theorem test_evRxByte_no_buffer :
    gives (exec (.evRxByte .b0 0x41#8)
      (under noBuffer { ready with engState := .addressed, dir := .write, rxf := [0x41#8] })) (fun t =>
        (t.bus .b0).rxf == [] && (t.bus .b0).wbuf == [] && (t.bus .b0).widx == 0 &&
        (t.bus .b0).engState == .transferring) = true := by decide
/-- D-14: unsent bytes stay. -/
theorem test_evStop :
    gives (exec (.evStop .b0) (on0 { ready with engState := .transferring, dir := .read, txf := [0#8, 0#8] })) (fun t =>
      t == on0 { ready with txf := [0#8, 0#8] }) = true := by decide
/-- D-16. -/
theorem test_evErrArb :
    gives (exec (.evErrArb .b0) (on0 { ready with engState := .transferring, dir := .read, txf := List.replicate 3 1#8 }))
      (fun t => t == on0 { ready with txf := List.replicate 3 1#8 }) = true := by decide
/-- D-17. -/
theorem test_evErrNack :
    gives (exec (.evErrNack .b0) (on0 { ready with engState := .transferring, dir := .read })) (fun t => t == on0 ready) = true := by
  decide
/-- D-18. -/
theorem test_evErrTimeout :
    gives (exec (.evErrTimeout .b0) (on0 { ready with engState := .addressed, dir := .write, widx := 2 }))
      (fun t => t == on0 { ready with widx := 2 }) = true := by decide
/-- D-19. -/
theorem test_evErrOvf :
    gives (exec (.evErrOvf .b0) (on0 { ready with engState := .transferring, dir := .write })) (fun t => t == on0 ready) = true := by
  decide
/-- R110: the oldest event goes first and is removed. -/
theorem test_isr_takes_the_head :
    gives (exec (.isr .b0) (on0 { ready with engState := .transferring, dir := .read, evq := [0x9000#16, 0x4000#16] }))
      (fun t => t == on0 { ready with evq := [0x4000#16] }) = true := by decide
/-- D-20: a reserved word is not taken. -/
theorem test_isr_refuses :
    gives (exec (.isr .b0) (on0 { ready with evq := [0x5000#16] })) (fun t =>
      t == { on0 { ready with evq := [0x5000#16] } with refused := true }) = true := by decide

/-! ### Front end -/

/-- F-1. -/
theorem test_wStartR_match :
    gives (exec (.wStartR .b0 0x25#7) (on0 ready)) (fun t =>
      t == on0 { ready with feSel := .read, feActive := true, evq := [0x104B#16], masterObs := some .ack }) = true := by decide
/-- F-3: nobody answers before START. -/
theorem test_wStartR_disabled :
    gives (exec (.wStartR .b0 0x25#7) (on0 { ready with engineEn := false })) (fun t =>
      t == on0 { ready with engineEn := false, masterObs := some .nack }) = true := by decide
/-- F-4. -/
theorem test_wStartW_match :
    gives (exec (.wStartW .b1 0x30#7) (both ready { ready with ownAddr := 0x30#7 })) (fun t =>
      (t.bus .b1).feSel == .write && (t.bus .b1).evq == [0x1060#16] && t.bus .b0 == ready) = true := by decide
/-- F-16, its first half: a repeated START to another address leaves the transaction open. -/
theorem test_wStartW_mismatch :
    gives (exec (.wStartW .b0 0x26#7) (on0 { ready with feSel := .read, feActive := true })) (fun t =>
      t == on0 { ready with feActive := true, masterObs := some .nack }) = true := by decide
/-- F-5. -/
theorem test_wWrite :
    gives (exec (.wWrite .b0 0x41#8) (on0 { ready with feSel := .write })) (fun t =>
      t == on0 { ready with feSel := .write, rxf := [0x41#8], evq := [0x3041#16], masterObs := some .ack }) = true := by decide
/-- F-6. -/
theorem test_wWrite_overflow :
    gives (exec (.wWrite .b0 0x7E#8) (on0 { ready with feSel := .write, rxf := [0x11#8, 0x22#8] })) (fun t =>
      t == on0 { ready with feSel := .write, rxf := [0x11#8, 0x22#8], evq := [0xB000#16], masterObs := some .ack }) = true := by
  decide
/-- F-11: TX_LOW before ERR_NACK. -/
theorem test_wRead_threshold_and_nack :
    gives (exec (.wRead .b0 true) (on0 { ready with feSel := .read, feActive := true, txf := [0#8, 0#8] })) (fun t =>
      t == on0 { ready with feActive := true, txf := [0#8], evq := [0x2003#16, 0x9000#16], masterObs := some (.byte 0#8) }) = true := by
  decide
/-- F-12: an underrun raises no event. -/
theorem test_wRead_underrun :
    gives (exec (.wRead .b0 false) (on0 { ready with feSel := .read })) (fun t =>
      (t.bus .b0).underrun && (t.bus .b0).evq == [] && (t.bus .b0).feSel == .read) = true := by decide
/-- F-14. -/
theorem test_wStop :
    gives (exec (.wStop .b0) (on0 { ready with feSel := .read, feActive := true })) (fun t =>
      t == on0 { ready with evq := [0x4000#16], masterObs := some .nothing }) = true := by decide
/-- F-15. -/
theorem test_wStop_without_transaction :
    gives (exec (.wStop .b0) (on0 ready)) (fun t => t == on0 { ready with masterObs := some .nothing }) = true := by decide
/-- F-18. -/
theorem test_xArb :
    gives (exec (.xArb .b0) (on0 { ready with feSel := .read, feActive := true })) (fun t =>
      t == on0 { ready with feActive := true, evq := [0x8000#16] }) = true := by decide
/-- F-20. -/
theorem test_xTimeout :
    gives (exec (.xTimeout .b0) (on0 { ready with feSel := .write, feActive := true })) (fun t =>
      t == on0 { ready with evq := [0xA000#16] }) = true := by decide

/-! ### Host commands -/

/-- S-1. -/
theorem test_activate :
    gives (exec (.activate 0#4 0x08#8) (on0 idle)) (fun t =>
      t == { on0 { ready with phase := .set, seqMask := 0x08#8 } with cmdResult := some .ok }) = true := by decide
/-- S-3: one undefined bit is enough (C1). -/
theorem test_activate_invalid_mask :
    gives (exec (.activate 0#4 0x88#8) (on0 idle)) (fun t => t == { on0 idle with cmdResult := some .invalidMask }) = true := by
  decide
/-- M-2. -/
theorem test_cfg :
    gives (exec (.cfg 0#4 0x02#8) (State.resetWith flag2)) (fun t =>
      (t.bus .b0).img == [(0, 0x02#8), (3, 0x5A#8), (4, 0xA5#8)] && (t.bus .b0).configured && t.cmdResult == some .ok) = true := by
  decide
/-- M-5: a class that is not defined. -/
theorem test_cfg_refuses_class :
    gives (exec (.cfg 0#4 0x04#8) (on0 idle)) (fun t => t == { on0 idle with refused := true }) = true := by decide
/-- R-4. -/
theorem test_start :
    gives (exec (.start 0#4 0x25#7) (State.resetWith Config.vectorE)) (fun t =>
      t == { on0 { BusState.reset with ownAddr := 0x25#7, engineEn := true } with cmdResult := some .ok }) = true := by decide
/-- R-5. -/
theorem test_start_busy :
    gives (exec (.start 0#4 0x26#7) (on0 ready)) (fun t => t == { on0 ready with cmdResult := some .busy }) = true := by decide
/-- R-2, R-3: a press and an event are dropped, the sticky marks and WBUF are kept. -/
theorem test_reset :
    gives (exec .reset (both { holding 2 with evq := [0x104B#16], underrun := true, wbuf := [(1, 7#8)] } ready)) (fun t =>
      t == { both { BusState.reset with underrun := true, wbuf := [(1, 7#8)] } BusState.reset with cmdResult := some .ok }) = true := by
  decide

/-! ### Sequencer -/

/-- S-18. -/
theorem test_step_hold :
    gives (exec (.step .b0) (on0 (holding 0))) (fun t => t == on0 { idle with phase := .cleared, seqMask := 0x08#8 }) = true := by
  decide
/-- S-19: the flag byte at index 2. -/
theorem test_step_hold_flag2 :
    gives (exec (.step .b1) ((State.resetWith flag2).setBus .b1
      { ready with img := [(0, 0x03#8), (2, 0x21#8)], phase := .hold, seqMask := 0x21#8 })) (fun t =>
        (t.bus .b1).img == [(0, 0x03#8)] && (t.bus .b1).phase == .cleared) = true := by decide
/-- S-14. -/
theorem test_tick :
    gives (exec (.tick .b0) (on0 { ready with phase := .assert, timer := 1 })) (fun t =>
      t == on0 { ready with phase := .assert, timer := 0 }) = true := by decide
/-- S-15, S-16. -/
theorem test_tick_skips :
    gives (exec (.tick .b0) (on0 { ready with phase := .assert })) (fun t => t == on0 { ready with phase := .assert }) = true ∧
    gives (exec (.tick .b0) (on0 { ready with phase := .set, timer := 4 })) (fun t =>
      t == on0 { ready with phase := .set, timer := 4 }) = true := by decide

/-! ### Steps -/

/-- A placed CMD, SQ or W word is what the next step runs. -/
theorem test_step_runs_the_placed_word :
    gives (step ((State.resetWith Config.vectorE).withFetchWord 16 0xF000)) (fun t => t.cmdResult == some .ok) = true ∧
    gives (step ((State.resetWith Config.vectorE).withFetchWord 16 0x004B)) (fun t =>
      (t.bus .b0).masterObs == some .nack) = true := by decide
/-- A placed EV word is the event whose handler the next step runs. -/
theorem test_step_runs_the_placed_event :
    gives (step ((State.resetWith Config.vectorE).withFetchWord 16 0x104B)) (fun t =>
      (t.bus .b0).dir == .read && (t.bus .b0).evq == []) = true := by decide
/-- R-7: a reserved CMD word is refused, whatever the state. -/
theorem test_step_refuses_reserved :
    gives (step ((on0 ready).pickNext (.cmd 0x30A5#16))) (fun t => t == { on0 ready with refused := true }) = true := by decide

/-! ### Cases that meet the hypotheses of the obligations -/

theorem test_hyp_DecodeReturnsTheEncodedInstruction : WellFormed (.evTxLow .b1 0xFF#8) = true := by decide
theorem test_hyp_EncodeReturnsTheDecodedWord : decode (.cmd 0x3F7F#16) = .ok (.start 15#4 0x7F#7) := by decide

theorem test_hyp_StepRunsTheDecodedPick :
    let s := (on0 idle).pickNext (.cmd 0x1008#16)
    s.refused = false ∧ s.schedule = .cmd 0x1008#16 :: [] ∧ decode (Pick.cmd 0x1008#16).word = .ok (.activate 0#4 0x08#8) := by
  decide
theorem test_hyp_ReservedPickRefusesTheRun :
    let s := (on0 idle).pickNext (.sq 0x12#8)
    s.refused = false ∧ s.schedule = .sq 0x12#8 :: [] ∧ decode (Pick.sq 0x12#8).word = .error .sqWord := by decide
theorem test_hyp_IsrRunsTheOldestEvent :
    ((on0 { ready with evq := [0x3041#16, 0x4000#16] }).bus .b0).evq = 0x3041#16 :: [0x4000#16] ∧
    decode (.ev .b0 0x3041#16) = .ok (.evRxByte .b0 0x41#8) := by decide
theorem test_hyp_IsrRefusesAReservedEvent :
    ((on0 { ready with evq := [0x2000#16] }).bus .b0).evq = 0x2000#16 :: [] ∧ decode (.ev .b0 0x2000#16) = .error .evWord := by
  decide
theorem test_hyp_StepsThatAreNotEnabledAreNotTaken :
    ((on0 ready).bus .b0).evq = [] ∧ ((on0 ready).bus .b0).phase = .idle ∧
    (((on0 (holding 1)).bus .b0).phase ∈ [Phase.assert, .hold, .rassert, .rhold] ∧ 0 < ((on0 (holding 1)).bus .b0).timer) ∧
    ((on0 { ready with feSel := .write }).bus .b0).feSel ≠ .read ∧ ((on0 ready).bus .b0).feActive = false := by decide

theorem test_hyp_TxLowRefillsTheFreeSpace :
    let s := on0 { ready with dir := .read, engState := .addressed, txf := [0#8], rp := 4 }
    (s.bus .b0).dir = .read ∧ (s.bus .b0).engState ≠ .idle := by decide
/-- Each disjunct of the two clauses by itself. -/
theorem test_hyp_EventsOutsideTheirTransactionChangeLittle :
    (((on0 { ready with dir := .write, engState := .transferring }).bus .b0).dir ≠ .read) ∧
    (((on0 { ready with dir := .read }).bus .b0).engState = .idle) ∧
    (((on0 { ready with dir := .read, engState := .addressed }).bus .b0).dir ≠ .write) ∧
    (((on0 { ready with dir := .write }).bus .b0).engState = .idle) := by decide
/-- The last byte that fits (`WBUF_LEN` is 3). -/
theorem test_hyp_ReceivedByteIsStoredAtTheIndex :
    let s := on0 { ready with dir := .write, engState := .transferring, widx := 2, rxf := [0x41#8], wbuf := [(0, 1#8)] }
    (s.bus .b0).dir = .write ∧ (s.bus .b0).engState ≠ .idle ∧ (s.bus .b0).widx < s.params.raw.wbufLen ∧
    (s.bus .b0).wbuf.wf = true := by decide
/-- The first byte that does not fit. -/
theorem test_hyp_ReceivedByteIsDroppedWhenTheBufferIsFull :
    let s := on0 { ready with dir := .write, engState := .transferring, widx := 3, rxf := [0x7E#8] }
    (s.bus .b0).dir = .write ∧ (s.bus .b0).engState ≠ .idle ∧ s.params.raw.wbufLen ≤ (s.bus .b0).widx := by decide
theorem test_hyp_StopAndErrorsReturnToIdle :
    Instr.evStop .b0 ∈ [Instr.evStop .b0, .evErrArb .b0, .evErrNack .b0, .evErrTimeout .b0, .evErrOvf .b0] ∧
    Instr.evErrOvf .b1 ∈ [Instr.evStop .b1, .evErrArb .b1, .evErrNack .b1, .evErrTimeout .b1, .evErrOvf .b1] := by decide
theorem test_hyp_HandlerWritesOnlyDispatcherFields :
    handlerBus (.isr .b0) = some .b0 ∧ handlerBus (.evTxLow .b1 3#8) = some .b1 := by decide

theorem test_hyp_StartReadMatchSelects :
    let s := on0 ready
    ((s.bus .b0).evq = [] ∨ s.params.raw.stretch = false) ∧ (s.bus .b0).engineEn = true ∧ (s.bus .b0).ownAddr = 0x25#7 := by
  decide
/-- With stretching, while no event is pending. -/
theorem test_hyp_StartWriteMatchSelects :
    let s := under stretched ready
    ((s.bus .b0).evq = [] ∨ s.params.raw.stretch = false) ∧ (s.bus .b0).engineEn = true ∧ (s.bus .b0).ownAddr = 0x25#7 := by
  decide
theorem test_hyp_StartWithoutMatchIsNacked :
    let s := on0 { ready with engineEn := false }
    let s' := on0 { ready with evq := [0x4000#16] }
    (Instr.wStartR .b0 0x25#7 ∈ [Instr.wStartR .b0 0x25#7, .wStartW .b0 0x25#7] ∧
      ((s.bus .b0).evq = [] ∨ s.params.raw.stretch = false) ∧ (s.bus .b0).engineEn = false) ∧
    (Instr.wStartW .b0 0x24#7 ∈ [Instr.wStartR .b0 0x24#7, .wStartW .b0 0x24#7] ∧
      ((s'.bus .b0).evq = [] ∨ s'.params.raw.stretch = false) ∧ (s'.bus .b0).ownAddr ≠ 0x24#7) := by decide
/-- One place is left in the FIFO (`RX_DEPTH` is 2). -/
theorem test_hyp_WriteQueuesTheByte :
    let s := on0 { ready with feSel := .write, rxf := [0x11#8], evq := [0x3011#16] }
    ((s.bus .b0).evq = [] ∨ s.params.raw.stretch = false) ∧ (s.bus .b0).feSel = .write ∧
    (s.bus .b0).rxf.length < s.params.raw.rxDepth := by decide
theorem test_hyp_WriteToAFullFifoOverflows :
    let s := on0 { ready with feSel := .write, rxf := [0x11#8, 0x22#8], evq := [0x3011#16, 0x3022#16] }
    ((s.bus .b0).evq = [] ∨ s.params.raw.stretch = false) ∧ (s.bus .b0).feSel = .write ∧
    s.params.raw.rxDepth ≤ (s.bus .b0).rxf.length := by decide
theorem test_hyp_WriteWhileNotSelectedIsNacked :
    let s := on0 { ready with feSel := .read }
    ((s.bus .b0).evq = [] ∨ s.params.raw.stretch = false) ∧ (s.bus .b0).feSel ≠ .write := by decide
theorem test_hyp_ReadSendsTheHeadOfTheFifo :
    let s := on0 { ready with feSel := .read, feActive := true, txf := [0x02#8, 0x08#8] }
    ((s.bus .b0).evq = [] ∨ s.params.raw.stretch = false) ∧ (s.bus .b0).feSel = .read ∧ (s.bus .b0).txf = 0x02#8 :: [0x08#8] := by
  decide
theorem test_hyp_ReadOfAnEmptyFifoIsAnUnderrun :
    let s := on0 { ready with feSel := .read, feActive := true, evq := [0x104B#16] }
    ((s.bus .b0).evq = [] ∨ s.params.raw.stretch = false) ∧ (s.bus .b0).feSel = .read ∧ (s.bus .b0).txf = [] := by decide
theorem test_hyp_ReadWhileNotSelectedDraws :
    let s := on0 { ready with feSel := .write }
    ((s.bus .b0).evq = [] ∨ s.params.raw.stretch = false) ∧ (s.bus .b0).feSel ≠ .read := by decide
/-- A transaction is open. -/
theorem test_hyp_WireStopEndsTheTransaction :
    let s := on0 { ready with feSel := .read, feActive := true }
    ((s.bus .b0).evq = [] ∨ s.params.raw.stretch = false) ∧ (s.bus .b0).feActive = true := by decide
theorem test_hyp_StretchingHoldsTheWire :
    let s := under stretched { ready with evq := [0x104B#16] }
    s.params.raw.stretch = true ∧ (s.bus .b0).evq ≠ [] ∧
    Instr.wRead .b0 true ∈ [Instr.wStartR .b0 0#7, .wStartW .b0 0#7, .wWrite .b0 0#8, .wRead .b0 true, .wStop .b0] := by decide
theorem test_hyp_ArbitrationLossEndsTheSelection :
    ((on0 { ready with feSel := .read, feActive := true }).bus .b0).feSel = .read := by decide
theorem test_hyp_TimeoutAbandonsTheTransaction : ((on0 { ready with feActive := true }).bus .b0).feActive = true := by decide

/-- Every bit of the table at once (S-4). -/
theorem test_hyp_ActivateSetsTheMaskBits :
    let s := on0 idle
    BusId.ofField 0#4 = some .b0 ∧ (s.bus .b0).engineEn = true ∧ (s.bus .b0).configured = true ∧ (s.bus .b0).phase = .idle ∧
    0x0F#8 ≠ 0#8 ∧ 0x0F#8 &&& ~~~(s.params.bus .b0).defined = 0#8 ∧ (s.bus .b0).img.wf = true := by decide
/-- Bus 2 is the first that does not exist; then each disjunct of each check (S-2, S-5, S-7, S-8, and a mask with the lowest
undefined bit). -/
theorem test_hyp_ActivateReturnsTheFirstError :
    2 ≤ (2#4).toNat ∧ BusId.ofField 0#4 = some .b0 ∧
    ((on0 { idle with engineEn := false }).bus .b0).engineEn = false ∧
    ((on0 { idle with configured := false }).bus .b0).configured = false ∧
    (((on0 (holding 2)).bus .b0).engineEn = true ∧ ((on0 (holding 2)).bus .b0).configured = true ∧
      ((on0 (holding 2)).bus .b0).phase ≠ .idle) ∧
    (((on0 idle).bus .b0).engineEn = true ∧ ((on0 idle).bus .b0).configured = true ∧ ((on0 idle).bus .b0).phase = .idle ∧
      (0#8 = 0#8) ∧ 0x10#8 &&& ~~~((on0 idle).params.bus .b0).defined ≠ 0#8) := by decide
theorem test_hyp_CfgWritesTheWholeImage :
    BusId.ofField 1#4 = some .b1 ∧ ((on0 idle).bus .b1).phase = .idle ∧ 0x06#8 ∈ [0x02#8, 0x03#8, 0x06#8] ∧
    ((on0 idle).bus .b1).img.wf = true := by decide
theorem test_hyp_CfgReturnsTheFirstError :
    2 ≤ (2#4).toNat ∧ BusId.ofField 0#4 = some .b0 ∧ ((on0 (holding 0)).bus .b0).phase ≠ .idle ∧
    (((on0 idle).bus .b0).phase = .idle ∧ 0x04#8 ∉ [0x02#8, 0x03#8, 0x06#8]) := by decide
theorem test_hyp_StartEnablesTheEngine : BusId.ofField 1#4 = some .b1 ∧ ((on0 idle).bus .b1).engineEn = false := by decide
theorem test_hyp_StartReturnsTheFirstError :
    2 ≤ (2#4).toNat ∧ BusId.ofField 0#4 = some .b0 ∧ ((on0 idle).bus .b0).engineEn = true := by decide

theorem test_hyp_StepFromSetAssertsTheLine : ((on0 { ready with phase := .set }).bus .b0).phase = .set := by decide
theorem test_hyp_StepFromAssertBeginsTheReleaseWait :
    let s := on0 { ready with phase := .assert, attn := true }
    (s.bus .b0).phase = .assert ∧ (s.bus .b0).timer = 0 := by decide
theorem test_hyp_StepFromHoldClearsTheMaskBits :
    let s := on0 (holding 0)
    (s.bus .b0).phase = .hold ∧ (s.bus .b0).timer = 0 ∧ (s.bus .b0).img.wf = true := by decide
theorem test_hyp_StepFromClearedPulsesOrEnds : ((on0 { ready with phase := .cleared }).bus .b0).phase = .cleared := by decide
theorem test_hyp_StepFromRassertBeginsTheFinalWait :
    let s := both ready { ready with phase := .rassert, attn := true }
    (s.bus .b1).phase = .rassert ∧ (s.bus .b1).timer = 0 := by decide
theorem test_hyp_StepFromRholdEndsThePress :
    let s := both ready { ready with phase := .rhold }
    (s.bus .b1).phase = .rhold ∧ (s.bus .b1).timer = 0 := by decide
theorem test_hyp_PhaseChangesOnlyAlongThePress :
    ∃ t, exec (.step .b0) (on0 (holding 0)) = .next t ∧ (t.bus .b0).phase ≠ ((on0 (holding 0)).bus .b0).phase :=
  ⟨_, rfl, by decide⟩

/-- The three clauses of the timing bound, each on a shortest run (`T_ASSERT` is 2 and `T_HOLD` is 3). -/
theorem test_hyp_PressHoldsForItsTicks_assert :
    let s := on0 { ready with phase := .assert, timer := 2 }
    let run := [Instr.tick .b0, .tick .b0, .step .b0]
    Instr.reset ∉ run ∧ (s.bus .b0).phase = .assert ∧ (s.bus .b0).timer = s.params.raw.tAssert ∧
    ∃ u, execAll run s = .next u ∧ (u.bus .b0).phase ≠ .assert := ⟨by decide, by decide, by decide, _, rfl, by decide⟩
theorem test_hyp_PressHoldsForItsTicks_hold :
    let run := [Instr.tick .b0, .tick .b0, .tick .b0, .step .b0]
    Instr.reset ∉ run ∧ ((on0 (holding 3)).bus .b0).phase = .hold ∧
    ((on0 (holding 3)).bus .b0).timer = (on0 (holding 3)).params.raw.tHold ∧
    ∃ u, execAll run (on0 (holding 3)) = .next u ∧ (u.bus .b0).phase ≠ .hold := ⟨by decide, by decide, by decide, _, rfl, by decide⟩
theorem test_hyp_PressHoldsForItsTicks_press :
    let s := on0 { ready with phase := .set, seqMask := 0x08#8 }
    let run := [Instr.step .b0, .tick .b0, .tick .b0, .step .b0, .tick .b0, .tick .b0, .tick .b0, .step .b0]
    Instr.reset ∉ run ∧ (s.bus .b0).phase = .set ∧ (s.bus .b0).img.wf = true ∧
    (s.bus .b0).img.read (s.params.bus .b0).flagIdx.index &&& 0x08#8 = 0x08#8 ∧ (s.bus .b0).seqMask = 0x08#8 ∧
    ∃ u, execAll run s = .next u ∧ (u.bus .b0).img.read (s.params.bus .b0).flagIdx.index &&& 0x08#8 ≠ 0x08#8 :=
  ⟨by decide, by decide, by decide, by decide, by decide, _, rfl, by decide⟩

theorem test_hyp_OnlyFourRulesWriteTheImage :
    let s := on0 (holding 0)
    (s.bus .b0).img.wf = true ∧ ∃ t, exec (.step .b0) s = .next t ∧ (t.bus .b0).img.read 1 ≠ (s.bus .b0).img.read 1 :=
  ⟨by decide, _, rfl, by decide⟩
theorem test_hyp_OnlyReceivedBytesWriteTheBuffer :
    let s := on0 { ready with dir := .write, engState := .addressed, rxf := [0x41#8], evq := [0x3041#16] }
    (s.bus .b0).wbuf.wf = true ∧ ∃ t, exec (.isr .b0) s = .next t ∧ (t.bus .b0).wbuf.read 0 ≠ (s.bus .b0).wbuf.read 0 :=
  ⟨by decide, _, rfl, by decide⟩
/-- Each clause: a refused run, a bus that has underrun, and a bus that underruns now. -/
theorem test_hyp_StickyMarksAndFixedConfiguration :
    (∃ t, exec .reset { on0 ready with refused := true } = .next t) ∧
    (∃ t, exec .reset (on0 { ready with underrun := true }) = .next t) ∧
    (∃ t, exec (.wRead .b0 true) (on0 { ready with feSel := .read }) = .next t ∧
      ((on0 { ready with feSel := .read }).bus .b0).underrun = false ∧ (t.bus .b0).underrun = true) :=
  ⟨⟨_, rfl⟩, ⟨_, rfl⟩, _, rfl, by decide, by decide⟩

/-- A press in HOLD on a bus that serves a write transaction with a byte pending. -/
def legal : State := on0 { holding 3 with
  dir := .write, engState := .addressed, feSel := .write, feActive := true, rxf := [0x41#8], evq := [0x3041#16] }

theorem test_legal_bus0 : BusInv legal.params .b0 (legal.bus .b0) := by
  constructor
  case evqDefined =>
    intro w hw
    have h : w = 0x3041#16 := by simpa [legal, on0, under, State.setBus, State.bus] using hw
    exact ⟨.rxByte 0x41#8, by rw [h]; decide⟩
  all_goals decide

theorem test_legal_bus1 : BusInv legal.params .b1 (legal.bus .b1) := by
  constructor
  case evqDefined => exact fun w hw => nomatch (show w ∈ ([] : List (BitVec 16)) from hw)
  all_goals decide

theorem test_hyp_EveryStepKeepsTheInvariant :
    (legal.pickNext (.sq 0x30#8)).Inv ∧ ∃ t, step (legal.pickNext (.sq 0x30#8)) = .next t := by
  refine ⟨fun b => ?_, _, rfl⟩
  cases b
  · exact test_legal_bus0
  · exact test_legal_bus1

/-- Two runs that differ in what they do to bus 1. -/
theorem test_hyp_BusesAreIsolated :
    let s := both ready ready
    let s' := both ready { ready with ownAddr := 0x30#7 }
    let run := [Instr.wStartR .b0 0x25#7, .activate 1#4 0x01#8, .isr .b0]
    let run' := [Instr.wStartR .b0 0x25#7, .isr .b0, .step .b1]
    s.bus .b0 = s'.bus .b0 ∧ s.params = s'.params ∧
    run.filter (fun i => addresses i .b0) = run'.filter (fun i => addresses i .b0) ∧
    (∃ u, execAll run s = .next u) ∧ ∃ u', execAll run' s' = .next u' :=
  ⟨rfl, rfl, by decide, ⟨_, rfl⟩, ⟨_, rfl⟩⟩
/-- Stale bytes stand in the FIFO; one byte is the shortest poll. -/
theorem test_hyp_PollReturnsTheWrappedImage :
    let s := on0 { ready with txf := [0xAA#8] }
    1 ≤ 1 ∧ (s.bus .b0).engineEn = true ∧ (s.bus .b0).evq = [] := by decide
theorem test_hyp_SendIsAcknowledgedAndStored :
    let s := on0 { ready with wbuf := [(0, 7#8), (2, 9#8)] }
    (s.bus .b0).engineEn = true ∧ (s.bus .b0).evq = [] ∧ (s.bus .b0).rxf = [] ∧ (s.bus .b0).wbuf.wf = true := by decide

end Sys2Proof.Tests
end

section
/-! SUPPORT. What a step does with the environment's next pick (R10, R11, R45, R80): one equation for each answer of `fetch`, one
for each answer of `step`, and the statements about steps that follow from them. -/

namespace Sys2Proof.Machine

/-! ### Fetching the next pick -/

section
variable {s : State} {p : Pick} {rest : List Pick}

/-- The next pick decodes: its instruction, and the state without the pick (R80). -/
theorem fetch_of_decode_ok {i : Instr} (hsched : s.schedule = p :: rest) (hdec : decode p.word = .ok i) :
    fetch s = .instr i { s with schedule := rest } := by
  simp only [fetch, hsched, hdec]

/-- The next pick is a reserved word: it is named, and the pick is gone (R10). -/
theorem fetch_of_decode_error {r : Reserved} (hsched : s.schedule = p :: rest) (hdec : decode p.word = .error r) :
    fetch s = .reserved r { s with schedule := rest } := by
  simp only [fetch, hsched, hdec]

end

/-! ### One step -/

section
variable {s t : State}

/-- A run whose REFUSED mark is set has no meaning (R45). -/
theorem step_of_refused (href : s.refused = true) : step s = .refused .runHasNoMeaning := by
  rw [step, if_pos href]

/-- A step runs the instruction it has fetched (R11). -/
theorem step_of_fetch_instr {i : Instr} (href : s.refused = false) (hfetch : fetch s = .instr i t) : step s = exec i t := by
  simp only [step, href, hfetch, Bool.false_eq_true, if_false]

/-- A step that fetches a reserved word sets REFUSED and does nothing else (R10). -/
theorem step_of_fetch_reserved {r : Reserved} (href : s.refused = false) (hfetch : fetch s = .reserved r t) :
    step s = .next t.markRefused := by
  simp only [step, href, hfetch, Bool.false_eq_true, if_false]

end

/-! ### The statements about steps -/

/-- Settles O8: the fetch decodes the pick, and the step runs what was fetched. -/
theorem stepRunsTheDecodedPick : Obligations.StepRunsTheDecodedPick := by
  intro s p rest i href hsched hdec
  exact step_of_fetch_instr href (fetch_of_decode_ok hsched hdec)

/-- Settles O9: the reserved fetch sets REFUSED, and a step of a state with REFUSED set is refused. -/
theorem reservedPickRefusesTheRun : Obligations.ReservedPickRefusesTheRun := by
  intro s p rest r href hsched hdec
  exact ⟨step_of_fetch_reserved href (fetch_of_decode_error hsched hdec), step_of_refused rfl⟩

end Sys2Proof.Machine
end

section
/-! SUPPORT. What an instruction does to one bus, as a function of the configuration and of that bus's record alone (R47, R75):
the effect of each instruction, and the lemma `exec_acts`, which ties the effects to `exec` once for all instructions. -/

namespace Sys2Proof.Machine

/-! ### Effects on the record of a bus -/

/-- A W symbol: taken unless clock stretching holds the bus (R211). -/
def wireEffect (c : Params) (f : BusState → BusState) (x : BusState) : BusState :=
  if x.stretchHold c then x else f x

/-- ACTIVATE on a bus that exists: the press begins when the checks of R172 pass. -/
def activateEffect (c : Params) (b : BusId) (mask : Byte) (x : BusState) : BusState :=
  if x.engineEn = true ∧ x.configured = true ∧ x.phase = .idle ∧ maskValid (c.bus b).defined mask = true then
    beginPress c b mask x
  else x

/-- CFG on a bus that exists: a defined class is written while no press is in flight (R154). -/
def cfgEffect (c : Params) (b : BusId) (cls : Byte) (x : BusState) : BusState :=
  if x.phase = .idle ∧ classDefined cls = true then configureBus c b cls x else x

/-- START on a bus that exists: only an engine that is not enabled is started (R263). -/
def startEffect (addr7 : BitVec 7) (x : BusState) : BusState := if x.engineEn then x else startEngine addr7 x

/-- STEP: the phase step, where it is enabled (R179). -/
def stepEffect (c : Params) (b : BusId) (x : BusState) : BusState := if x.stepEnabled then phaseStep c b x else x

/-- ISR: the rule of the oldest pending event, where it is a defined one (R110, R121). -/
def isrEffect (c : Params) (b : BusId) (x : BusState) : BusState :=
  match x.evq with
  | [] => x
  | w :: _ =>
    match decodeEvent w with
    | .ok e => eventEffect c b e x.takeEvent
    | .error _ => x

/-- X.ARB, where it is enabled (R212). -/
def arbEffect (x : BusState) : BusState :=
  if x.arbEnabled then { x.raise evErrArbWord with feSel := .none } else x

/-- X.TIMEOUT, where it is enabled (R213). -/
def timeoutEffect (x : BusState) : BusState :=
  if x.timeoutEnabled then { x.raise evErrTimeoutWord with feSel := .none, feActive := false } else x

/-- The effect of an instruction on the record of a bus that it addresses. -/
def ownEffect (c : Params) (b : BusId) : Instr → BusState → BusState
  | .evAddrR _ a => eventEffect c b (.addrR a)
  | .evAddrW _ a => eventEffect c b (.addrW a)
  | .evTxLow _ n => eventEffect c b (.txLow n)
  | .evRxByte _ v => eventEffect c b (.rxByte v)
  | .evStop _ => eventEffect c b .stop
  | .evErrArb _ => eventEffect c b .errArb
  | .evErrNack _ => eventEffect c b .errNack
  | .evErrTimeout _ => eventEffect c b .errTimeout
  | .evErrOvf _ => eventEffect c b .errOvf
  | .wStartR _ a => wireEffect c (onStart a 1#1 .read)
  | .wStartW _ a => wireEffect c (onStart a 0#1 .write)
  | .wWrite _ v => wireEffect c (onWrite c v)
  | .wRead _ nack => wireEffect c (onRead c b nack)
  | .wStop _ => wireEffect c onStop
  | .activate _ mask => activateEffect c b mask
  | .cfg _ cls => cfgEffect c b cls
  | .start _ a => startEffect a
  | .reset => resetBus
  | .tick _ => tickDown
  | .step _ => stepEffect c b
  | .isr _ => isrEffect c b
  | .xArb _ => arbEffect
  | .xTimeout _ => timeoutEffect

/-- The effect of an instruction on the record of any bus. -/
def busEffect (c : Params) (b : BusId) (i : Instr) (x : BusState) : BusState :=
  if addresses i b then ownEffect c b i x else x

theorem busEffect_of_addresses {c : Params} {b : BusId} {i : Instr} (h : addresses i b = true) (x : BusState) :
    busEffect c b i x = ownEffect c b i x := if_pos h

theorem busEffect_of_not_addresses {c : Params} {b : BusId} {i : Instr} (h : ¬addresses i b = true) (x : BusState) :
    busEffect c b i x = x := if_neg h

/-! ### Updates of a bus that are conditional on its record -/

/-- An update that leaves the record as it is leaves the state as it is. -/
theorem State.onBus_eq_self {s : State} {b : BusId} {f : BusState → BusState} (h : f (s.bus b) = s.bus b) :
    s.onBus b f = s := by
  rw [State.onBus, h, State.setBus_bus]

/-- Updates that agree on the record agree on the state. -/
theorem State.onBus_congr {s : State} {b : BusId} {f g : BusState → BusState} (h : f (s.bus b) = g (s.bus b)) :
    s.onBus b f = s.onBus b g := congrArg (s.setBus b) h

/-- A W symbol is an update of its bus (R211). -/
theorem onWire_eq_onBus (s : State) (b : BusId) (f : BusState → BusState) :
    onWire s b f = s.onBus b (wireEffect s.params f) := by
  cases hhold : (s.bus b).stretchHold s.params with
  | true => rw [onWire_held f hhold, State.onBus_eq_self (by simp [wireEffect, hhold])]
  | false => rw [onWire_taken f hhold, State.onBus_congr (g := wireEffect s.params f) (by simp [wireEffect, hhold])]

/-- An update made only where its step is enabled is an update of the bus. -/
theorem State.ite_onBus (s : State) (b : BusId) (p : BusState → Bool) (f : BusState → BusState) :
    (if p (s.bus b) then s.onBus b f else s) = s.onBus b (fun x => if p x then f x else x) := by
  cases hp : p (s.bus b) with
  | true => exact State.onBus_congr (by simp [hp])
  | false => exact (State.onBus_eq_self (by simp [hp])).symm

/-! ### What `exec` does -/

/-- What an instruction leaves of a state: each bus changes by the instruction's effect on its own record, the configuration and
the pending picks stay, and REFUSED is never cleared (R45, R47, R73). -/
structure Acts (i : Instr) (s t : State) : Prop where
  bus : ∀ b, t.bus b = busEffect s.params b i (s.bus b)
  params : t.params = s.params
  schedule : t.schedule = s.schedule
  refused : s.refused = true → t.refused = true

section
variable {i : Instr} {s t : State} {b : BusId}

/-- An instruction that addresses one bus alone and updates its record by the instruction's effect. -/
theorem acts_onBus {f : BusState → BusState} (haddr : ∀ b', addresses i b' = (b == b'))
    (hf : f (s.bus b) = ownEffect s.params b i (s.bus b)) : Acts i s (s.onBus b f) where
  bus b' := by
    by_cases hb : b' = b
    · subst hb
      rw [State.bus_onBus_same, busEffect_of_addresses (by simp [haddr]), hf]
    · rw [State.bus_onBus_other _ _ hb, busEffect_of_not_addresses (by simpa [haddr] using Ne.symm hb)]
  params := State.params_onBus s b _
  schedule := State.schedule_onBus s b _
  refused hr := by rw [State.refused_onBus, hr]

/-- An instruction without an effect on the bus it addresses. -/
theorem acts_self (heff : ∀ b, addresses i b = true → ownEffect s.params b i (s.bus b) = s.bus b) : Acts i s s where
  bus b := by
    by_cases haddr : addresses i b = true
    · rw [busEffect_of_addresses haddr, heff b haddr]
    · rw [busEffect_of_not_addresses haddr]
  params := rfl
  schedule := rfl
  refused := id

/-- Returning a result to the host changes no bus (R88). -/
theorem Acts.reply (h : Acts i s t) (r : CmdResult) : Acts i s (t.reply r) where
  bus b := by rw [State.bus_reply, h.bus]
  params := h.params
  schedule := h.schedule
  refused := h.refused

/-- Refusing changes no bus (R10, R45). -/
theorem Acts.markRefused (h : Acts i s t) : Acts i s t.markRefused where
  bus b := by rw [State.bus_markRefused, h.bus]
  params := h.params
  schedule := h.schedule
  refused _ := rfl

end

/-- A command addresses the bus of its bus field, and no other (R86). -/
theorem ofField_beq_of_eq_some {bus : BitVec 4} {b : BusId} (hbus : BusId.ofField bus = some b) (b' : BusId) :
    (BusId.ofField bus == some b') = (b == b') := by rw [hbus]; rfl

/-- ISR (R110, R121). -/
theorem execIsr_answers (b : BusId) (s : State) : ∃ t, execIsr b s = .next t ∧ Acts (.isr b) s t := by
  have hsame : ∀ b', addresses (.isr b) b' = true → b = b' := fun b' h => by simpa [addresses] using h
  rcases execIsr_cases b s with ⟨hq, hrun⟩ | ⟨w, rest, r, hq, hdec, hrun⟩ | ⟨w, rest, e, hq, hdec, hrun⟩
  · refine ⟨s, hrun, acts_self fun b' haddr => ?_⟩
    obtain rfl := hsame b' haddr
    simp only [ownEffect, isrEffect, hq]
  · refine ⟨_, hrun, Acts.markRefused (acts_self fun b' haddr => ?_)⟩
    obtain rfl := hsame b' haddr
    simp only [ownEffect, isrEffect, hq, hdec]
  · refine ⟨s.onBus b (isrEffect s.params b), ?_, acts_onBus (fun _ => rfl) rfl⟩
    rw [hrun, handleEvent_eq, State.params_onBus]
    simp only [State.onBus, State.bus_setBus_same, State.setBus_setBus, isrEffect, hq, hdec]

/-- ACTIVATE (R171, R172). -/
theorem execActivate_answers (bus : BitVec 4) (mask : Byte) (s : State) :
    ∃ t, execActivate bus mask s = .next t ∧ Acts (.activate bus mask) s t := by
  cases hacc : acceptActivate s bus mask with
  | ok b =>
    obtain ⟨hbus, hchecks⟩ := acceptActivate_ok.mp hacc
    have haddr : ∀ b', addresses (.activate bus mask) b' = (b == b') := ofField_beq_of_eq_some hbus
    exact ⟨(s.onBus b (beginPress s.params b mask)).reply .ok, by simp only [execActivate, hacc],
      (acts_onBus haddr (if_pos hchecks).symm).reply _⟩
  | error r =>
    refine ⟨s.reply r, by simp only [execActivate, hacc], Acts.reply (acts_self fun b haddr => ?_) _⟩
    refine if_neg fun hchecks => ?_
    have hok := acceptActivate_ok.mpr ⟨by simpa [addresses] using haddr, hchecks⟩
    rw [hok] at hacc
    contradiction

/-- CFG (R154). -/
theorem execCfg_answers (bus : BitVec 4) (cls : Byte) (s : State) :
    ∃ t, execCfg bus cls s = .next t ∧ Acts (.cfg bus cls) s t := by
  cases hbus : BusId.ofField bus with
  | none =>
    refine ⟨s.reply .busUnavailable, by simp only [execCfg, hbus], Acts.reply (acts_self fun b haddr => ?_) _⟩
    simp [addresses, hbus] at haddr
  | some b =>
    by_cases hidle : (s.bus b).phase = .idle
    · by_cases hcls : classDefined cls = true
      · have haddr : ∀ b', addresses (.cfg bus cls) b' = (b == b') := ofField_beq_of_eq_some hbus
        exact ⟨(s.onBus b (configureBus s.params b cls)).reply .ok, by simp [execCfg, hbus, BusState.busy, hidle, hcls],
          (acts_onBus haddr (if_pos ⟨hidle, hcls⟩).symm).reply _⟩
      · exact ⟨s.markRefused, by simp [execCfg, hbus, BusState.busy, hidle, hcls],
          Acts.markRefused (acts_self fun _ _ => if_neg fun hchecks => hcls hchecks.2)⟩
    · refine ⟨s.reply .busy, by simp [execCfg, hbus, BusState.busy, hidle], Acts.reply (acts_self fun b' haddr => ?_) _⟩
      obtain rfl : b = b' := by simpa [addresses, hbus] using haddr
      exact if_neg fun hchecks => hidle hchecks.1

/-- START (R263). -/
theorem execStart_answers (bus : BitVec 4) (a : BitVec 7) (s : State) :
    ∃ t, execStart bus a s = .next t ∧ Acts (.start bus a) s t := by
  cases hbus : BusId.ofField bus with
  | none =>
    refine ⟨s.reply .busUnavailable, by simp only [execStart, hbus], Acts.reply (acts_self fun b haddr => ?_) _⟩
    simp [addresses, hbus] at haddr
  | some b =>
    cases hen : (s.bus b).engineEn with
    | true =>
      refine ⟨s.reply .busy, by simp [execStart, hbus, hen], Acts.reply (acts_self fun b' haddr => ?_) _⟩
      obtain rfl : b = b' := by simpa [addresses, hbus] using haddr
      exact if_pos hen
    | false =>
      have haddr : ∀ b', addresses (.start bus a) b' = (b == b') := ofField_beq_of_eq_some hbus
      exact ⟨(s.onBus b (startEngine a)).reply .ok, by simp [execStart, hbus, hen],
        (acts_onBus haddr (if_neg (by simp [hen])).symm).reply _⟩

/-- RESET (R260). -/
theorem execReset_answers (s : State) : ∃ t, execReset s = .next t ∧ Acts .reset s t := by
  refine ⟨_, rfl, Acts.reply ⟨fun b => ?_, by simp, by simp, by simp⟩ _⟩
  rw [busEffect_of_addresses rfl]
  cases b with
  | b0 => rw [State.bus_onBus_other _ _ (by decide), State.bus_onBus_same]; rfl
  | b1 => rw [State.bus_onBus_same, State.bus_onBus_other _ _ (by decide)]; rfl

/-- Every instruction answers a next state, and acts on it as its effects say. -/
theorem exec_answers (i : Instr) (s : State) : ∃ t, exec i s = .next t ∧ Acts i s t := by
  cases i with
  | evAddrR b | evAddrW b | evTxLow b | evRxByte b | evStop b | evErrArb b | evErrNack b | evErrTimeout b | evErrOvf b
  | tick b => exact ⟨_, rfl, acts_onBus (fun _ => rfl) rfl⟩
  | wStartR b | wStartW b | wWrite b | wRead b | wStop b =>
    exact ⟨_, congrArg Host.Outcome.next (onWire_eq_onBus s b _), acts_onBus (fun _ => rfl) rfl⟩
  | activate bus mask => exact execActivate_answers bus mask s
  | cfg bus cls => exact execCfg_answers bus cls s
  | start bus a => exact execStart_answers bus a s
  | reset => exact execReset_answers s
  | step b =>
    exact ⟨_, congrArg Host.Outcome.next (State.ite_onBus s b BusState.stepEnabled _), acts_onBus (fun _ => rfl) rfl⟩
  | isr b => exact execIsr_answers b s
  | xArb b => exact ⟨_, congrArg Host.Outcome.next (State.ite_onBus s b BusState.arbEnabled _), acts_onBus (fun _ => rfl) rfl⟩
  | xTimeout b =>
    exact ⟨_, congrArg Host.Outcome.next (State.ite_onBus s b BusState.timeoutEnabled _), acts_onBus (fun _ => rfl) rfl⟩

/-- What an instruction does, read off its next state. -/
theorem exec_acts {i : Instr} {s t : State} (h : exec i s = .next t) : Acts i s t := by
  obtain ⟨u, hu, hacts⟩ := exec_answers i s
  obtain rfl : u = t := by simpa [hu] using h
  exact hacts

end Sys2Proof.Machine
end

section
/-! SUPPORT. Every step keeps the invariant of Safety.lean (R42, R46, R170): one rule per operation on the record of a bus, which
proves again only the clauses the operation can touch; then one lemma per instruction's effect; then the step. -/

namespace Sys2Proof

theorem FlagIdx.index_lt (f : FlagIdx) : f.index < 5 := by cases f <;> decide

/-- The flag byte is a payload byte: neither the class, nor a constant, nor the other payload byte (R7, R46). -/
theorem FlagIdx.ne_index (f : FlagIdx) : 0 ≠ f.index ∧ 3 ≠ f.index ∧ 4 ≠ f.index ∧ f.otherIndex ≠ f.index := by
  cases f <;> decide

end Sys2Proof

namespace Sys2Proof.Machine

/-! ### Words of the event queue -/

/-- A defined EV word that carries no received byte: it may be queued without one in the receive FIFO (R115). -/
def BytelessEvent (w : BitVec 16) : Prop := (∃ e, decodeEvent w = .ok e) ∧ rxData w = none

theorem bytelessEvent_of_decode {w : BitVec 16} {e : Event} (hdec : decodeEvent w = .ok e) (he : ∀ v, e ≠ .rxByte v) :
    BytelessEvent w := by
  refine ⟨⟨e, hdec⟩, ?_⟩
  cases e with
  | rxByte v => exact absurd rfl (he v)
  | _ => simp only [rxData, hdec]

theorem rxData_of_decode {w : BitVec 16} {v : Byte} (hdec : decodeEvent w = .ok (.rxByte v)) : rxData w = some v := by
  simp only [rxData, hdec]

theorem bytelessEvent_addressR (a : BitVec 7) : BytelessEvent (evAddress (addressByte a 1#1)) :=
  bytelessEvent_of_decode (decodeEvent_addressR a) nofun

theorem bytelessEvent_addressW (a : BitVec 7) : BytelessEvent (evAddress (addressByte a 0#1)) :=
  bytelessEvent_of_decode (decodeEvent_addressW a) nofun

/-- The free space of TX_LOW is never 0, and fits in a byte (R7, R82). -/
theorem bytelessEvent_txLow {room : Nat} (hpos : 0 < room) (hfits : room ≤ 255) : BytelessEvent (evTxLowWord room) := by
  have hne : BitVec.ofNat 8 room ≠ 0#8 := by
    intro h
    have := congrArg BitVec.toNat h
    simp at this
    omega
  exact bytelessEvent_of_decode (decodeEvent_txLow _ hne) nofun

theorem bytelessEvent_stop : BytelessEvent evStopWord := bytelessEvent_of_decode (e := .stop) (by decide) nofun
theorem bytelessEvent_errArb : BytelessEvent evErrArbWord := bytelessEvent_of_decode (e := .errArb) (by decide) nofun
theorem bytelessEvent_errNack : BytelessEvent evErrNackWord := bytelessEvent_of_decode (e := .errNack) (by decide) nofun
theorem bytelessEvent_errTimeout : BytelessEvent evErrTimeoutWord :=
  bytelessEvent_of_decode (e := .errTimeout) (by decide) nofun
theorem bytelessEvent_errOvf : BytelessEvent evErrOvfWord := bytelessEvent_of_decode (e := .errOvf) (by decide) nofun

/-- The five bytes that CFG writes (R154). -/
theorem read_configuredImage {m : Memory} (h : m.wf = true) (p : BusParams) (cls : Byte) :
    let m' := writeImage (configuredImage p cls) m
    m'.read 0 = cls ∧ m'.read 1 = 0x00#8 ∧ m'.read 2 = 0x00#8 ∧ m'.read 3 = p.k3 ∧ m'.read 4 = p.k4 := by
  refine ⟨?_, ?_, ?_, ?_, ?_⟩ <;> exact read_writeImage h _ _

/-! ### Rules on the record of a bus -/

namespace BusInv

variable {c : Params} {b : BusId} {x : BusState}

/-! ### When the engine is enabled -/

/-- Only an enabled engine has raised an event (R234). -/
theorem enabled_of_pending (h : BusInv c b x) (hq : x.evq ≠ []) : x.engineEn = true := by
  by_contra hen
  exact hq (h.disabledQuiet (by simpa using hen)).1

/-- Only an enabled engine has an open transaction (R24). -/
theorem enabled_of_active (h : BusInv c b x) (hact : x.feActive = true) : x.engineEn = true := by
  by_contra hen
  obtain ⟨-, hquiet, -⟩ := h.disabledQuiet (by simpa using hen)
  simp [hact] at hquiet

/-- Only an enabled engine is selected (R33). -/
theorem enabled_of_selected (h : BusInv c b x) (hsel : x.feSel ≠ .none) : x.engineEn = true :=
  h.enabled_of_active (h.selActive hsel)

/-! ### Rules of the front end's operations -/

/-- Queueing an event that carries no received byte. -/
theorem raise (h : BusInv c b x) (hen : x.engineEn = true) {w : BitVec 16} (hw : BytelessEvent w) : BusInv c b (x.raise w) :=
  { h with
    disabledQuiet := fun hoff => by simp [BusState.raise, hen] at hoff
    evqDefined := by
      intro w' hmem
      rcases List.mem_append.mp hmem with hold | hnew
      · exact h.evqDefined w' hold
      · obtain rfl := List.mem_singleton.mp hnew
        exact hw.1
    rxfPending := by
      show x.rxf = (x.evq ++ [w]).filterMap rxData
      simp [h.rxfPending, hw.2] }

/-- Queueing a received byte together with its event, while there is room (R204). -/
theorem raiseRxByte (h : BusInv c b x) (hen : x.engineEn = true) (hroom : x.rxf.length < c.raw.rxDepth) (v : Byte) :
    BusInv c b ({ x with rxf := x.rxf ++ [v] }.raise (evRxByteWord v)) :=
  { h with
    disabledQuiet := fun hoff => by simp [BusState.raise, hen] at hoff
    rxfFits := by
      show (x.rxf ++ [v]).length ≤ c.raw.rxDepth
      simpa using hroom
    evqDefined := by
      intro w' hmem
      rcases List.mem_append.mp hmem with hold | hnew
      · exact h.evqDefined w' hold
      · obtain rfl := List.mem_singleton.mp hnew
        exact ⟨_, decodeEvent_rxByte v⟩
    rxfPending := by
      show x.rxf ++ [v] = (x.evq ++ [evRxByteWord v]).filterMap rxData
      simp [← h.rxfPending, rxData_of_decode (decodeEvent_rxByte v)] }

theorem observe (h : BusInv c b x) (o : WireObs) : BusInv c b (x.observe o) := { h with }

/-- Selecting the peripheral opens a transaction (R201, R203). -/
theorem select (h : BusInv c b x) (hen : x.engineEn = true) (sel : FeSel) :
    BusInv c b { x with feSel := sel, feActive := true } :=
  { h with
    disabledQuiet := fun hoff => by simp [hen] at hoff
    selActive := fun _ => rfl }

/-- Ending the selection, with the transaction still open. -/
theorem deselect (h : BusInv c b x) : BusInv c b { x with feSel := .none } :=
  { h with selActive := fun hsel => absurd rfl hsel }

/-- Ending the selection and the transaction (R210, R213). -/
theorem closeTransaction (h : BusInv c b x) : BusInv c b { x with feSel := .none, feActive := false } :=
  { h with
    disabledQuiet := fun hoff => by
      obtain ⟨hq, -, hidle⟩ := h.disabledQuiet hoff
      exact ⟨hq, rfl, hidle⟩
    selActive := fun hsel => absurd rfl hsel }

/-- Taking a byte from the transmit FIFO (R206). -/
theorem popTx (h : BusInv c b x) {v : Byte} {rest : List Byte} (htxf : x.txf = v :: rest) : BusInv c b { x with txf := rest } :=
  { h with
    txfFits := by
      have := h.txfFits
      simp only [htxf, List.length_cons] at this
      show rest.length ≤ c.raw.txDepth
      omega }

/-- Drawing a byte (R206, R209): the count of draws stands in no clause. -/
theorem drawn (h : BusInv c b x) : BusInv c b x.drawn := { h with }

/-- Setting the sticky mark (R206), which stands in no clause. -/
theorem markUnderrun (h : BusInv c b x) : BusInv c b { x with underrun := true } := { h with }

/-! ### Rules of the dispatcher's operations -/

/-- Taking an event that carries no received byte (R110). -/
theorem takeEvent (h : BusInv c b x) {w : BitVec 16} {rest : List (BitVec 16)} (hq : x.evq = w :: rest)
    (hw : rxData w = none) : BusInv c b x.takeEvent :=
  { h with
    disabledQuiet := fun hoff => absurd hoff (by simp [BusState.takeEvent, h.enabled_of_pending, hq])
    evqDefined := fun w' hmem => h.evqDefined w' (List.mem_of_mem_tail hmem)
    rxfPending := by
      show x.rxf = x.evq.tail.filterMap rxData
      simp [h.rxfPending, hq, hw] }

/-- Taking an RX_BYTE event and draining its byte (R115). -/
theorem takeEvent_drainRx (h : BusInv c b x) {w : BitVec 16} {rest : List (BitVec 16)} (hq : x.evq = w :: rest) {v : Byte}
    (hw : rxData w = some v) : BusInv c b x.takeEvent.drainRx :=
  { h with
    disabledQuiet := fun hoff => absurd hoff (by simp [BusState.takeEvent, BusState.drainRx, h.enabled_of_pending, hq])
    rxfFits := by
      show x.rxf.tail.length ≤ c.raw.rxDepth
      have := h.rxfFits
      simp only [List.length_tail]
      omega
    evqDefined := fun w' hmem => h.evqDefined w' (List.mem_of_mem_tail hmem)
    rxfPending := by
      show x.rxf.tail = x.evq.tail.filterMap rxData
      simp [h.rxfPending, hq, hw] }

theorem toIdle (h : BusInv c b x) : BusInv c b x.toIdle :=
  { h with
    dirIdle := by simp
    disabledQuiet := fun hoff => by
      obtain ⟨hq, hact, -⟩ := h.disabledQuiet hoff
      exact ⟨hq, hact, rfl⟩ }

theorem toAddressed (h : BusInv c b x) (hen : x.engineEn = true) {d : Dir} (hd : d ≠ .none) : BusInv c b (x.toAddressed d) :=
  { h with
    dirIdle := by simp [hd]
    disabledQuiet := fun hoff => absurd hoff (by simp [BusState.toAddressed, hen]) }

/-- Bytes move only inside a transaction. -/
theorem toTransferring (h : BusInv c b x) (hen : x.engineEn = true) (hd : x.dir ≠ .none) : BusInv c b x.toTransferring :=
  { h with
    dirIdle := by simp [BusState.toTransferring, hd]
    disabledQuiet := fun hoff => absurd hoff (by simp [BusState.toTransferring, hen]) }

/-- Pushing no more bytes than fit (R112, R114). -/
theorem push (h : BusInv c b x) (s : Image) {n : Nat} (hfits : x.txf.length + n ≤ c.raw.txDepth) : BusInv c b (x.push s n) :=
  { h with
    txfFits := by simpa using hfits }

/-- Flushing the transmit FIFO (R112). -/
theorem flush (h : BusInv c b x) : BusInv c b { x with txf := [], rp := 0 } :=
  { h with txfFits := Nat.zero_le _ }

/-- Resetting the write index (R113). -/
theorem resetIndex (h : BusInv c b x) : BusInv c b { x with widx := 0 } :=
  { h with widxFits := Nat.zero_le _ }

/-- Storing a received byte at the write index, or dropping it (R115). -/
theorem storeRx (h : BusInv c b x) (v : Byte) : BusInv c b (x.storeRx c v) := by
  unfold BusState.storeRx
  split
  next hlt =>
    exact { h with
      wbufWf := Memory.write_wf h.wbufWf _ _
      wbufWithin := Memory.write_within h.wbufWithin hlt _
      widxFits := hlt }
  next => exact h

/-! ### Event rules -/

/-- ISR's rule for every event but RX_BYTE, on the record without the event (R112, R113, R114, R116 to R120). -/
theorem eventEffect_of_ne_rxByte (h : BusInv c b x) (hen : x.engineEn = true) {e : Event} (he : ∀ v, e ≠ .rxByte v) :
    BusInv c b (eventEffect c b e x) := by
  cases e with
  | rxByte v => exact absurd rfl (he v)
  | addrR a =>
    have hfits : ([] : List Byte).length + min 5 c.raw.txDepth ≤ c.raw.txDepth := by simp
    exact (h.flush.push _ hfits).toAddressed hen (by decide)
  | addrW a => exact h.resetIndex.toAddressed hen (by decide)
  | txLow n =>
    show BusInv c b (onTxLow c b x)
    unfold onTxLow
    split
    next hin =>
      have hfits : x.txf.length + (c.raw.txDepth - x.txf.length) ≤ c.raw.txDepth := by
        have := h.txfFits
        omega
      exact (h.push _ hfits).toTransferring hen (by simp [BusState.push, hin.1])
    next => exact h
  | stop => exact h.toIdle
  | errArb => exact h.toIdle
  | errNack => exact h.toIdle
  | errTimeout => exact h.toIdle
  | errOvf => exact h.toIdle

/-- ISR's rule for RX_BYTE drains the byte of the event that ISR takes (R110, R115). -/
theorem takeEvent_onRxByte (h : BusInv c b x) {w : BitVec 16} {rest : List (BitVec 16)} (hq : x.evq = w :: rest) {v : Byte}
    (hw : rxData w = some v) : BusInv c b (onRxByte c v x.takeEvent) := by
  have hen : x.engineEn = true := h.enabled_of_pending (by simp [hq])
  have hdrained := h.takeEvent_drainRx hq hw
  unfold onRxByte
  split
  next hin =>
    refine (hdrained.storeRx v).toTransferring ?_ ?_
    · simpa [BusState.storeRx_eq, BusState.drainRx, BusState.takeEvent] using hen
    · simp [BusState.storeRx_eq, BusState.drainRx, hin.1]
  next => exact hdrained

/-- ISR (R110). -/
theorem isrEffect (h : BusInv c b x) : BusInv c b (isrEffect c b x) := by
  cases hq : x.evq with
  | nil => simpa only [Machine.isrEffect, hq] using h
  | cons w rest =>
    obtain ⟨e, hdec⟩ := h.evqDefined w (by simp [hq])
    have heq : Machine.isrEffect c b x = eventEffect c b e x.takeEvent := by simp only [Machine.isrEffect, hq, hdec]
    rw [heq]
    by_cases hrx : ∃ v, e = .rxByte v
    · obtain ⟨v, rfl⟩ := hrx
      exact h.takeEvent_onRxByte hq (rxData_of_decode hdec)
    · have hne : ∀ v, e ≠ .rxByte v := fun v hv => hrx ⟨v, hv⟩
      have htaken := h.takeEvent hq (bytelessEvent_of_decode hdec hne).2
      exact htaken.eventEffect_of_ne_rxByte (h.enabled_of_pending (by simp [hq])) hne

/-! ### W symbols and injected errors -/

theorem engineEn_raiseTxLow (c : Params) (before : Nat) (x : BusState) : (raiseTxLow c before x).engineEn = x.engineEn := by
  unfold Machine.raiseTxLow
  split <;> rfl

/-- A W symbol keeps the invariant whether it is held or taken (R211). -/
theorem wireEffect {f : BusState → BusState} (h : BusInv c b x) (hf : BusInv c b (f x)) : BusInv c b (wireEffect c f x) := by
  unfold Machine.wireEffect
  split
  · exact h
  · exact hf

/-- START (R201 to R203). -/
theorem onStart (h : BusInv c b x) {a : BitVec 7} {dirBit : BitVec 1} (hw : BytelessEvent (evAddress (addressByte a dirBit)))
    (sel : FeSel) : BusInv c b (onStart a dirBit sel x) := by
  unfold Machine.onStart
  split
  next hans =>
    have hen : x.engineEn = true := by
      simp only [BusState.answers, Bool.and_eq_true] at hans
      exact hans.1
    exact ((h.select hen sel).raise hen hw).observe _
  next => exact h.deselect.observe _

/-- WRITE (R204, R205). -/
theorem onWrite (h : BusInv c b x) (v : Byte) : BusInv c b (onWrite c v x) := by
  unfold Machine.onWrite
  split
  next hsel =>
    have hen : x.engineEn = true := h.enabled_of_selected (by simp [hsel])
    split
    next hroom => exact (h.raiseRxByte hen hroom v).observe _
    next => exact (h.raise hen bytelessEvent_errOvf).observe _
  next => exact h.observe _

/-- The pop that crosses down to the threshold leaves a free space from 1 to 255 (R7, R207). -/
theorem raiseTxLow (h : BusInv c b x) (hen : x.engineEn = true) {before : Nat}
    (hpop : before = c.raw.txLowThresh + 1 → x.txf.length = c.raw.txLowThresh) : BusInv c b (raiseTxLow c before x) := by
  obtain ⟨-, hdepth, hthresh, -⟩ := c.sizes
  unfold Machine.raiseTxLow
  split
  next hcross =>
    have hlen := hpop hcross
    exact h.raise hen (bytelessEvent_txLow (by omega) (by omega))
  next => exact h

/-- The master's NACK (R208). -/
theorem raiseNack (h : BusInv c b x) (hen : x.engineEn = true) (nack : Bool) : BusInv c b (raiseNack nack x) := by
  unfold Machine.raiseNack
  split
  · exact (h.raise hen bytelessEvent_errNack).deselect
  · exact h

/-- READ (R206 to R209). -/
theorem onRead (h : BusInv c b x) (nack : Bool) : BusInv c b (onRead c b nack x) := by
  unfold Machine.onRead
  split
  next hsel =>
    have hen : x.engineEn = true := h.enabled_of_selected (by simp [hsel])
    rcases takeReadByte_cases b x with ⟨v, rest, htxf, htake⟩ | ⟨htxf, htake⟩
    · rw [htake]
      have hpopped := (h.popTx htxf).raiseTxLow hen (before := x.txf.length) (by simp [htxf])
      exact (hpopped.raiseNack ((engineEn_raiseTxLow ..).trans hen) nack).observe _
    · rw [htake]
      have hmarked := h.drawn.markUnderrun.raiseTxLow hen (before := x.txf.length) (by simp [htxf])
      exact (hmarked.raiseNack ((engineEn_raiseTxLow ..).trans hen) nack).observe _
  next => exact h.drawn.observe _

/-- STOP (R210). -/
theorem onStop (h : BusInv c b x) : BusInv c b (onStop x) := by
  unfold Machine.onStop
  split
  next hact => exact (h.closeTransaction.raise (h.enabled_of_active hact) bytelessEvent_stop).observe _
  next => exact h.deselect.observe _

/-- X.ARB (R212). -/
theorem arbEffect (h : BusInv c b x) : BusInv c b (arbEffect x) := by
  unfold Machine.arbEffect
  split
  next harb =>
    have hsel : x.feSel = .read := of_decide_eq_true harb
    exact (h.raise (h.enabled_of_selected (by simp [hsel])) bytelessEvent_errArb).deselect
  next => exact h

/-- X.TIMEOUT (R213). -/
theorem timeoutEffect (h : BusInv c b x) : BusInv c b (timeoutEffect x) := by
  unfold Machine.timeoutEffect
  split
  next hact => exact (h.raise (h.enabled_of_active hact) bytelessEvent_errTimeout).closeTransaction
  next => exact h

/-! ### Rules of the sequencer's and the host's operations -/

/-- A press in flight has latched a valid mask (R42, R172). -/
theorem maskValid_of_press (h : BusInv c b x) (hrun : x.phase ≠ .idle) : maskValid (c.bus b).defined x.seqMask = true := by
  rcases h.maskLegal with hvalid | ⟨-, hidle⟩
  · exact hvalid
  · exact absurd hidle hrun

/-- A press goes on to a phase in which its bits stand as before, with that phase's line and timer (R170). -/
theorem enterPhase (h : BusInv c b x) {p : Phase} {attn : Bool} {timer : Nat} (hrun : x.phase ≠ .idle)
    (hflags : p.flagsSet = x.phase.flagsSet) (hrel : p = .rassert ∨ p = .rhold → (c.bus b).attnRelEn = true)
    (hattn : attn = p.attnLevel (c.bus b)) (htimer : timer ≤ p.holdTicks c) :
    BusInv c b { x with attn := attn, timer := timer, phase := p } :=
  { h with
    flagByte := by simpa [hflags] using h.flagByte
    maskLegal := .inl (h.maskValid_of_press hrun)
    pressStarted := fun _ => h.pressStarted hrun
    releaseEnabled := hrel
    attnLine := hattn
    timerBound := htimer }

/-- The flag byte is written, at the beginning of a press or at its release (R171, R175). -/
theorem writeFlag (h : BusInv c b x) {p : Phase} {mask v : Byte} (hstarted : x.engineEn = true ∧ x.configured = true)
    (hv : v = if p.flagsSet then mask else 0x00#8) (hmask : maskValid (c.bus b).defined mask = true)
    (hrel : ¬(p = .rassert ∨ p = .rhold)) (hattn : x.attn = p.attnLevel (c.bus b)) (htimer : x.timer ≤ p.holdTicks c) :
    BusInv c b { x with img := x.img.write (c.bus b).flagIdx.index v, seqMask := mask, phase := p } := by
  obtain ⟨hclass, hk3, hk4, hother⟩ := (c.bus b).flagIdx.ne_index
  exact { h with
    imgWf := Memory.write_wf h.imgWf _ _
    imgWithin := Memory.write_within h.imgWithin (FlagIdx.index_lt _) _
    unconfigured := fun hcfg => by simp [hstarted.2] at hcfg
    configuredClass := by simpa only [Memory.read_write_other h.imgWf hclass] using h.configuredClass
    configuredK3 := by simpa only [Memory.read_write_other h.imgWf hk3] using h.configuredK3
    configuredK4 := by simpa only [Memory.read_write_other h.imgWf hk4] using h.configuredK4
    flagByte := (Memory.read_write_same h.imgWf _ _).trans hv
    otherByte := by simpa only [Memory.read_write_other h.imgWf hother] using h.otherByte
    maskLegal := .inl hmask
    pressStarted := fun _ => hstarted
    releaseEnabled := fun hp => absurd hp hrel
    attnLine := hattn
    timerBound := htimer }

/-- The release of a press (R175): the latched bits go, and the flag byte is zero again. -/
theorem stepFromHold (h : BusInv c b x) (hph : x.phase = .hold) (htimer : x.timer = 0) : BusInv c b (stepFromHold c b x) := by
  have hrun : x.phase ≠ .idle := by simp [hph]
  have hflag := h.flagByte
  have hattn := h.attnLine
  rw [hph] at hflag hattn
  refine h.writeFlag (p := .cleared) (h.pressStarted hrun) ?_ (h.maskValid_of_press hrun) (by simp) hattn htimer.le
  rw [hflag]
  simp [Phase.flagsSet]

/-- The release pulse, or the end of the press (R176). -/
theorem stepFromCleared (h : BusInv c b x) (hph : x.phase = .cleared) : BusInv c b (stepFromCleared c b x) := by
  have hrun : x.phase ≠ .idle := by simp [hph]
  have hattn := h.attnLine
  have htimer := h.timerBound
  rw [hph] at hattn htimer
  unfold Machine.stepFromCleared
  split
  next hrel => exact h.enterPhase hrun (by rw [hph]; rfl) (fun _ => hrel) rfl le_rfl
  next => exact h.enterPhase hrun (by rw [hph]; rfl) nofun hattn htimer

/-- The phase steps of R173 to R178. A timed phase is left only with its timer at 0 (R179). -/
theorem phaseStep (h : BusInv c b x) (hen : x.stepEnabled = true) : BusInv c b (phaseStep c b x) := by
  unfold Machine.phaseStep
  cases hph : x.phase with
  | idle => exact h
  | set => exact h.enterPhase (by simp [hph]) (by rw [hph]; rfl) nofun rfl le_rfl
  | assert => exact h.enterPhase (by simp [hph]) (by rw [hph]; rfl) nofun rfl le_rfl
  | hold => exact h.stepFromHold hph (by simpa [BusState.stepEnabled, hph] using hen)
  | cleared => exact h.stepFromCleared hph
  | rassert =>
    have hrel := h.releaseEnabled (.inl hph)
    exact h.enterPhase (by simp [hph]) (by rw [hph]; rfl) (fun _ => hrel) rfl le_rfl
  | rhold =>
    have htimer : x.timer = 0 := by simpa [BusState.stepEnabled, hph] using hen
    have hattn := h.attnLine
    rw [hph] at hattn
    exact h.enterPhase (by simp [hph]) (by rw [hph]; rfl) nofun hattn htimer.le

/-- STEP (R179). -/
theorem stepEffect (h : BusInv c b x) : BusInv c b (stepEffect c b x) := by
  unfold Machine.stepEffect
  split
  next hen => exact h.phaseStep hen
  next => exact h

/-- TICK (R180). -/
theorem tickDown (h : BusInv c b x) : BusInv c b (tickDown x) := by
  unfold Machine.tickDown
  split
  next => exact { h with timerBound := (Nat.sub_le _ _).trans h.timerBound }
  next => exact h

/-- ACTIVATE (R171, R172). -/
theorem activateEffect (h : BusInv c b x) (mask : Byte) : BusInv c b (activateEffect c b mask x) := by
  unfold Machine.activateEffect
  split
  next hchecks =>
    obtain ⟨hen, hcfg, hidle, hmask⟩ := hchecks
    have hflag : x.img.read (c.bus b).flagIdx.index = 0x00#8 := by simpa [hidle, Phase.flagsSet] using h.flagByte
    have hattn := h.attnLine
    have htimer := h.timerBound
    rw [hidle] at hattn htimer
    exact h.writeFlag (p := .set) ⟨hen, hcfg⟩ (by simp [hflag, Phase.flagsSet]) hmask (by simp) hattn htimer
  next => exact h

/-- CFG (R154, R156). -/
theorem cfgEffect (h : BusInv c b x) (cls : Byte) : BusInv c b (cfgEffect c b cls x) := by
  unfold Machine.cfgEffect
  split
  next hchecks =>
    obtain ⟨hidle, hcls⟩ := hchecks
    obtain ⟨hclass, hpayload1, hpayload2, hk3, hk4⟩ := read_configuredImage h.imgWf (c.bus b) cls
    exact { h with
      imgWf := writeImage_wf h.imgWf _
      imgWithin := writeImage_within h.imgWithin _
      unconfigured := nofun
      configuredClass := fun _ => (congrArg classDefined hclass).trans hcls
      configuredK3 := fun _ => hk3
      configuredK4 := fun _ => hk4
      flagByte := by
        cases hf : (c.bus b).flagIdx <;>
          simp [configureBus, hpayload1, hpayload2, FlagIdx.index, hidle, Phase.flagsSet]
      otherByte := by
        cases hf : (c.bus b).flagIdx <;> simp [configureBus, hpayload1, hpayload2, FlagIdx.otherIndex]
      pressStarted := fun hrun => absurd hidle hrun }
  next => exact h

/-- START (R263). -/
theorem startEffect (h : BusInv c b x) (a : BitVec 7) : BusInv c b (startEffect a x) := by
  unfold Machine.startEffect
  split
  next => exact h
  next hoff =>
    exact { h with
      pressStarted := fun hrun => absurd (h.pressStarted hrun).1 hoff
      disabledQuiet := nofun }

/-- The record of a bus after power-on is legal under every configuration (R262). -/
theorem reset (c : Params) (b : BusId) : BusInv c b BusState.reset where
  imgWf := rfl
  imgWithin := rfl
  wbufWf := rfl
  wbufWithin := rfl
  unconfigured _ := rfl
  configuredClass := nofun
  configuredK3 := nofun
  configuredK4 := nofun
  flagByte := rfl
  otherByte := rfl
  maskLegal := .inr ⟨rfl, rfl⟩
  pressStarted hrun := absurd rfl hrun
  releaseEnabled := nofun
  attnLine := rfl
  timerBound := le_rfl
  dirIdle := iff_of_true rfl rfl
  disabledQuiet _ := ⟨rfl, rfl, rfl⟩
  selActive hsel := absurd rfl hsel
  txfFits := Nat.zero_le _
  rxfFits := Nat.zero_le _
  widxFits := Nat.zero_le _
  evqDefined := nofun
  rxfPending := rfl

/-- RESET keeps the write-reassembly buffer, and returns the rest to a legal record (R260). -/
theorem resetBus (h : BusInv c b x) : BusInv c b (resetBus x) :=
  { BusInv.reset c b with
    wbufWf := h.wbufWf
    wbufWithin := h.wbufWithin }

/-! ### Instructions and steps -/

/-- Every instruction of a pick keeps the invariant of a bus it addresses. -/
theorem ownEffect (h : BusInv c b x) {i : Instr} (hi : handlerBus i = none ∨ ∃ b', i = .isr b') :
    BusInv c b (ownEffect c b i x) := by
  cases i with
  | evAddrR | evAddrW | evTxLow | evRxByte | evStop | evErrArb | evErrNack | evErrTimeout | evErrOvf =>
    simp [handlerBus] at hi
  | wStartR b' a => exact h.wireEffect (h.onStart (bytelessEvent_addressR a) _)
  | wStartW b' a => exact h.wireEffect (h.onStart (bytelessEvent_addressW a) _)
  | wWrite b' v => exact h.wireEffect (h.onWrite v)
  | wRead b' nack => exact h.wireEffect (h.onRead nack)
  | wStop b' => exact h.wireEffect h.onStop
  | activate bus mask => exact h.activateEffect mask
  | cfg bus cls => exact h.cfgEffect cls
  | start bus a => exact h.startEffect a
  | reset => exact h.resetBus
  | tick b' => exact h.tickDown
  | step b' => exact h.stepEffect
  | isr b' => exact h.isrEffect
  | xArb b' => exact h.arbEffect
  | xTimeout b' => exact h.timeoutEffect

end BusInv

/-- No pick is an event rule: EV words come from the event queue alone (R80, R93). -/
theorem decode_pick {p : Pick} {i : Instr} (hdec : decode p.word = .ok i) : handlerBus i = none ∨ ∃ b, i = .isr b := by
  cases p with
  | wire b w =>
    left
    simp only [Pick.word, decode, decodeWire] at hdec
    split_ifs at hdec <;> cases hdec <;> rfl
  | cmd w =>
    left
    simp only [Pick.word, decode, decodeCmd] at hdec
    split_ifs at hdec <;> cases hdec <;> rfl
  | sq w =>
    simp only [Pick.word, decode, decodeSq] at hdec
    split_ifs at hdec <;> cases hdec <;> simp [handlerBus]

/-- An instruction of a pick keeps the invariant. -/
theorem exec_keeps_inv {i : Instr} {s t : State} (hinv : s.Inv) (hi : handlerBus i = none ∨ ∃ b, i = .isr b)
    (hrun : exec i s = .next t) : t.Inv := by
  intro b
  have hacts := exec_acts hrun
  rw [hacts.params, hacts.bus]
  by_cases haddr : addresses i b = true
  · rw [busEffect_of_addresses haddr]
    exact (hinv b).ownEffect hi
  · rw [busEffect_of_not_addresses haddr]
    exact hinv b

/-- The invariant speaks of the buses and the configuration alone. -/
theorem State.Inv.of_bus_eq {s t : State} (hinv : s.Inv) (hbus : ∀ b, t.bus b = s.bus b) (hparams : t.params = s.params) :
    t.Inv := fun b => by
  rw [hbus, hparams]
  exact hinv b

/-- Everything a step that answers a next state can do: wait, run the instruction of its pick, or refuse a reserved word. -/
theorem step_cases {s t : State} (h : step s = .next t) :
    (s.schedule = [] ∧ t = s) ∨
    (∃ p rest i, s.schedule = p :: rest ∧ decode p.word = .ok i ∧ exec i { s with schedule := rest } = .next t) ∨
    (∃ p rest r, s.schedule = p :: rest ∧ decode p.word = .error r ∧
      t = ({ s with schedule := rest } : State).markRefused) := by
  by_cases hset : s.refused = true
  · simp [step_of_refused hset] at h
  · have href : s.refused = false := by simpa using hset
    cases hsched : s.schedule with
    | nil =>
      have hwait : step s = .next s := by simp [step, href, fetch, hsched]
      exact .inl ⟨rfl, by simpa [hwait] using h.symm⟩
    | cons p rest =>
      cases hdec : decode p.word with
      | ok i =>
        rw [step_of_fetch_instr href (fetch_of_decode_ok hsched hdec)] at h
        exact .inr (.inl ⟨p, rest, i, rfl, hdec, h⟩)
      | error r =>
        rw [step_of_fetch_reserved href (fetch_of_decode_error hsched hdec)] at h
        exact .inr (.inr ⟨p, rest, r, rfl, hdec, by simpa using h.symm⟩)

/-- Settles O56: a step waits, refuses, or runs the instruction of a pick, which keeps each clause of each bus. -/
theorem everyStepKeepsTheInvariant : Obligations.EveryStepKeepsTheInvariant := by
  intro s t hinv hstep
  rcases step_cases hstep with ⟨-, rfl⟩ | ⟨p, rest, i, -, hdec, hrun⟩ | ⟨p, rest, r, -, -, rfl⟩
  · exact hinv
  · exact exec_keeps_inv (hinv.of_bus_eq (fun b => State.bus_schedule s rest b) rfl) (decode_pick hdec) hrun
  · exact hinv.of_bus_eq (fun b => by simp) rfl

end Sys2Proof.Machine
end

section
/-! SUPPORT. The write-reassembly buffer, the sticky marks and the fixed configuration (R28, R38, R45, R60, R73): what each
instruction's effect writes of them. -/

namespace Sys2Proof.Machine

/-! ### The word of a received byte -/

/-- An EV word is its code, its four zero bits and its data (R81). -/
theorem eventWord_eq_append (w : BitVec 16) : w = w.extractLsb' 12 4 ++ (w.extractLsb' 8 4 ++ w.extractLsb' 0 8) := by
  rw [BitVec.extractLsb'_append_extractLsb'_eq_extractLsb' (by rfl),
    BitVec.extractLsb'_append_extractLsb'_eq_extractLsb' (by rfl)]
  simp

/-- Only the word of a received byte decodes to RX_BYTE with that byte (R82). -/
theorem eq_evRxByteWord_of_decode {w : BitVec 16} {v : Byte} (hdec : decodeEvent w = .ok (.rxByte v)) : w = evRxByteWord v := by
  unfold decodeEvent at hdec
  dsimp only at hdec
  by_cases hz : w.extractLsb' 8 4 ≠ 0#4
  · rw [if_pos hz] at hdec
    cases hdec
  rw [if_neg hz] at hdec
  by_cases haddr : w.extractLsb' 12 4 = 0x1#4
  · rw [if_pos haddr] at hdec
    split at hdec <;> cases hdec
  rw [if_neg haddr] at hdec
  by_cases htxLow : w.extractLsb' 12 4 = 0x2#4
  · rw [if_pos htxLow] at hdec
    split at hdec <;> cases hdec
  rw [if_neg htxLow] at hdec
  by_cases hrx : w.extractLsb' 12 4 = 0x3#4
  · rw [if_pos hrx] at hdec
    cases hdec
    have hw := eventWord_eq_append w
    rw [hrx, not_not.mp hz] at hw
    exact hw
  · rw [if_neg hrx] at hdec
    split_ifs at hdec <;> cases hdec

/-! ### Effects that write neither the buffer nor the sticky mark -/

/-- The buffer and the sticky mark of `y` are those of `x`. -/
structure KeepsBufferAndMark (x y : BusState) : Prop where
  wbuf : y.wbuf = x.wbuf
  underrun : y.underrun = x.underrun

section
variable {c : Params} {b : BusId} {x : BusState}

theorem wireEffect_keeps {f : BusState → BusState} (h : KeepsBufferAndMark x (f x)) :
    KeepsBufferAndMark x (wireEffect c f x) := by
  unfold wireEffect
  split
  · exact ⟨rfl, rfl⟩
  · exact h

theorem onTxLow_keeps : KeepsBufferAndMark x (onTxLow c b x) := by
  unfold onTxLow; split <;> exact ⟨rfl, rfl⟩

theorem onStart_keeps (a : BitVec 7) (dirBit : BitVec 1) (sel : FeSel) : KeepsBufferAndMark x (onStart a dirBit sel x) := by
  unfold onStart; split <;> exact ⟨rfl, rfl⟩

theorem onWrite_keeps (v : Byte) : KeepsBufferAndMark x (onWrite c v x) := by
  unfold onWrite
  split
  · split <;> exact ⟨rfl, rfl⟩
  · exact ⟨rfl, rfl⟩

theorem onStop_keeps : KeepsBufferAndMark x (onStop x) := by
  unfold onStop; split <;> exact ⟨rfl, rfl⟩

theorem arbEffect_keeps : KeepsBufferAndMark x (arbEffect x) := by
  unfold arbEffect; split <;> exact ⟨rfl, rfl⟩

theorem timeoutEffect_keeps : KeepsBufferAndMark x (timeoutEffect x) := by
  unfold timeoutEffect; split <;> exact ⟨rfl, rfl⟩

theorem activateEffect_keeps (mask : Byte) : KeepsBufferAndMark x (activateEffect c b mask x) := by
  unfold activateEffect; split <;> exact ⟨rfl, rfl⟩

theorem cfgEffect_keeps (cls : Byte) : KeepsBufferAndMark x (cfgEffect c b cls x) := by
  unfold cfgEffect; split <;> exact ⟨rfl, rfl⟩

theorem startEffect_keeps (a : BitVec 7) : KeepsBufferAndMark x (startEffect a x) := by
  unfold startEffect; split <;> exact ⟨rfl, rfl⟩

theorem tickDown_keeps : KeepsBufferAndMark x (tickDown x) := by
  unfold tickDown; split <;> exact ⟨rfl, rfl⟩

theorem phaseStep_keeps : KeepsBufferAndMark x (phaseStep c b x) := by
  unfold phaseStep
  cases x.phase with
  | cleared => unfold stepFromCleared; dsimp only; split <;> exact ⟨rfl, rfl⟩
  | idle | set | assert | hold | rassert | rhold => exact ⟨rfl, rfl⟩

theorem stepEffect_keeps : KeepsBufferAndMark x (stepEffect c b x) := by
  unfold stepEffect
  split
  · exact phaseStep_keeps
  · exact ⟨rfl, rfl⟩

/-! ### Effects that write one of them -/

/-- RX_BYTE stores its byte at the write index, or leaves the buffer as it is (R115). -/
theorem wbuf_onRxByte (c : Params) (v : Byte) (x : BusState) :
    (onRxByte c v x).wbuf = x.wbuf ∨ (x.widx < c.raw.wbufLen ∧ (onRxByte c v x).wbuf = x.wbuf.write x.widx v) := by
  by_cases hin : x.dir = .write ∧ x.engState ≠ .idle
  · rw [onRxByte_inside v hin]
    by_cases hroom : x.widx < c.raw.wbufLen
    · exact .inr ⟨hroom, if_pos hroom⟩
    · exact .inl (if_neg hroom)
  · exact .inl (by rw [onRxByte_outside v hin])

/-- No event rule but RX_BYTE writes the buffer. -/
theorem wbuf_eventEffect_of_ne_rxByte {e : Event} (he : ∀ v, e ≠ .rxByte v) : (eventEffect c b e x).wbuf = x.wbuf := by
  cases e with
  | rxByte v => exact absurd rfl (he v)
  | txLow n => exact onTxLow_keeps.wbuf
  | addrR | addrW | stop | errArb | errNack | errTimeout | errOvf => rfl

/-- No event rule writes the sticky mark. -/
theorem underrun_eventEffect (c : Params) (b : BusId) (e : Event) (x : BusState) :
    (eventEffect c b e x).underrun = x.underrun := by
  obtain ⟨-, -, -, -, -, -, -, -, -, -, hunderrun, -⟩ := eventEffect_frame c b e x
  exact hunderrun

/-- ISR stores the byte of an RX_BYTE at the head of the queue, or leaves the buffer as it is. -/
theorem wbuf_isrEffect (c : Params) (b : BusId) (x : BusState) :
    (isrEffect c b x).wbuf = x.wbuf ∨
    ∃ v, x.evq.head? = some (evRxByteWord v) ∧ x.widx < c.raw.wbufLen ∧ (isrEffect c b x).wbuf = x.wbuf.write x.widx v := by
  unfold isrEffect
  split
  next => exact .inl rfl
  next w rest hq =>
    split
    next e hdec =>
      by_cases hrx : ∃ v, e = .rxByte v
      · obtain ⟨v, rfl⟩ := hrx
        rcases wbuf_onRxByte c v x.takeEvent with hkept | ⟨hroom, hstored⟩
        · exact .inl hkept
        · exact .inr ⟨v, by simp [hq, eq_evRxByteWord_of_decode hdec], hroom, hstored⟩
      · exact .inl (wbuf_eventEffect_of_ne_rxByte fun v hv => hrx ⟨v, hv⟩)
    next => exact .inl rfl

theorem underrun_isrEffect (c : Params) (b : BusId) (x : BusState) : (isrEffect c b x).underrun = x.underrun := by
  unfold isrEffect
  split
  next => rfl
  next =>
    split
    next => exact underrun_eventEffect c b _ _
    next => rfl

/-- What a read slot raises after its byte writes neither. -/
theorem raiseNack_raiseTxLow_keeps (before : Nat) (nack : Bool) (y : BusState) :
    KeepsBufferAndMark y (raiseNack nack (raiseTxLow c before y)) := by
  unfold raiseNack raiseTxLow
  split <;> split <;> exact ⟨rfl, rfl⟩

/-- A read slot never writes the buffer, and sets the sticky mark exactly on an underrun (R206). -/
theorem onRead_writes (c : Params) (b : BusId) (nack : Bool) (x : BusState) :
    (onRead c b nack x).wbuf = x.wbuf ∧
    (onRead c b nack x).underrun = (x.underrun || decide (x.feSel = .read ∧ x.txf = [])) := by
  unfold onRead
  split
  next hsel =>
    rcases takeReadByte_cases b x with ⟨v, rest, htxf, htake⟩ | ⟨htxf, htake⟩
    · rw [htake]
      obtain ⟨hwbuf, hunderrun⟩ := raiseNack_raiseTxLow_keeps (c := c) x.txf.length nack { x with txf := rest }
      exact ⟨hwbuf, hunderrun.trans (by simp [htxf])⟩
    · rw [htake]
      obtain ⟨hwbuf, hunderrun⟩ :=
        raiseNack_raiseTxLow_keeps (c := c) x.txf.length nack { x with draws := x.draws + 1, underrun := true }
      exact ⟨hwbuf, hunderrun.trans (by simp [hsel, htxf])⟩
  next hsel => exact ⟨rfl, by simp [BusState.observe, BusState.drawn, hsel]⟩

/-! ### Every instruction -/

/-- Only RX_BYTE, ISR and READ can write the buffer or the sticky mark. -/
theorem ownEffect_keeps {i : Instr} (hrx : ∀ b' v, i ≠ .evRxByte b' v) (hisr : ∀ b', i ≠ .isr b')
    (hread : ∀ b' nack, i ≠ .wRead b' nack) : KeepsBufferAndMark x (ownEffect c b i x) := by
  cases i with
  | evRxByte b' v => exact absurd rfl (hrx b' v)
  | isr b' => exact absurd rfl (hisr b')
  | wRead b' nack => exact absurd rfl (hread b' nack)
  | evAddrR | evAddrW | evStop | evErrArb | evErrNack | evErrTimeout | evErrOvf | reset => exact ⟨rfl, rfl⟩
  | evTxLow => exact onTxLow_keeps
  | wStartR b' a => exact wireEffect_keeps (onStart_keeps a _ _)
  | wStartW b' a => exact wireEffect_keeps (onStart_keeps a _ _)
  | wWrite b' v => exact wireEffect_keeps (onWrite_keeps v)
  | wStop b' => exact wireEffect_keeps onStop_keeps
  | activate bus mask => exact activateEffect_keeps mask
  | cfg bus cls => exact cfgEffect_keeps cls
  | start bus a => exact startEffect_keeps a
  | tick b' => exact tickDown_keeps
  | step b' => exact stepEffect_keeps
  | xArb b' => exact arbEffect_keeps
  | xTimeout b' => exact timeoutEffect_keeps

/-- The buffer of a bus: as before, or with one byte stored at the write index, by RX_BYTE or by ISR (R115). -/
theorem wbuf_busEffect (c : Params) (b : BusId) (i : Instr) (x : BusState) :
    (busEffect c b i x).wbuf = x.wbuf ∨
    ∃ v, x.widx < c.raw.wbufLen ∧ (busEffect c b i x).wbuf = x.wbuf.write x.widx v ∧
      (i = .evRxByte b v ∨ (i = .isr b ∧ x.evq.head? = some (evRxByteWord v))) := by
  by_cases haddr : addresses i b = true
  · rw [busEffect_of_addresses haddr]
    cases i
    case evRxByte b' v =>
      obtain rfl : b' = b := by simpa [addresses] using haddr
      rcases wbuf_onRxByte c v x with hkept | ⟨hroom, hstored⟩
      · exact .inl hkept
      · exact .inr ⟨v, hroom, hstored, .inl rfl⟩
    case isr b' =>
      obtain rfl : b' = b := by simpa [addresses] using haddr
      rcases wbuf_isrEffect c b' x with hkept | ⟨v, hhead, hroom, hstored⟩
      · exact .inl hkept
      · exact .inr ⟨v, hroom, hstored, .inr ⟨rfl, hhead⟩⟩
    case wRead b' nack =>
      left
      show (wireEffect c (onRead c b nack) x).wbuf = x.wbuf
      unfold wireEffect
      split
      · rfl
      · exact (onRead_writes c b nack x).1
    all_goals exact .inl (KeepsBufferAndMark.wbuf (ownEffect_keeps nofun nofun nofun))
  · exact .inl (by rw [busEffect_of_not_addresses haddr])

/-- The sticky mark of a bus: as before, or set by a read slot that underruns (R206). -/
theorem underrun_busEffect (c : Params) (b : BusId) (i : Instr) (x : BusState) :
    (busEffect c b i x).underrun = x.underrun ∨
    ((busEffect c b i x).underrun = true ∧ ∃ nack, i = .wRead b nack ∧ x.feSel = .read ∧ x.txf = []) := by
  by_cases haddr : addresses i b = true
  · rw [busEffect_of_addresses haddr]
    cases i
    case evRxByte b' v => exact .inl (underrun_eventEffect c b _ x)
    case isr b' => exact .inl (underrun_isrEffect c b x)
    case wRead b' nack =>
      obtain rfl : b' = b := by simpa [addresses] using haddr
      show (wireEffect c (onRead c b' nack) x).underrun = x.underrun ∨ (wireEffect c (onRead c b' nack) x).underrun = true ∧ _
      unfold wireEffect
      split
      · exact .inl rfl
      · by_cases hempty : x.feSel = .read ∧ x.txf = []
        · exact .inr ⟨by simp [(onRead_writes c b' nack x).2, hempty], nack, rfl, hempty⟩
        · exact .inl (by simp only [(onRead_writes c b' nack x).2, hempty, decide_false, Bool.or_false])
    all_goals exact .inl (KeepsBufferAndMark.underrun (ownEffect_keeps nofun nofun nofun))
  · exact .inl (by rw [busEffect_of_not_addresses haddr])

end

/-- Settles O54: the one byte an instruction can store stands at the write index. -/
theorem onlyReceivedBytesWriteTheBuffer : Obligations.OnlyReceivedBytesWriteTheBuffer := by
  intro i s t b a hwf hrun hchanged
  rw [(exec_acts hrun).bus] at hchanged ⊢
  rcases wbuf_busEffect s.params b i (s.bus b) with hkept | ⟨v, hroom, hstored, hcause⟩
  · exact absurd (by rw [hkept]) hchanged
  · rw [hstored] at hchanged ⊢
    have hindex : a = (s.bus b).widx := by
      by_contra hother
      exact hchanged (Memory.read_write_other hwf hother v)
    subst hindex
    exact ⟨rfl, hroom, v, Memory.read_write_same hwf _ v, by simpa only [evRxByteWord_eq] using hcause⟩

/-- Settles O55: REFUSED, the configuration and the picks as `exec_acts` says, UNDERRUN as the effect on the bus says. -/
theorem stickyMarksAndFixedConfiguration : Obligations.StickyMarksAndFixedConfiguration := by
  intro i s t b hrun
  have hacts := exec_acts hrun
  refine ⟨hacts.refused, hacts.params, hacts.schedule, ?_⟩
  rw [hacts.bus]
  rcases underrun_busEffect s.params b i (s.bus b) with hkept | ⟨hset, hcause⟩
  · rw [hkept]
    exact ⟨id, fun hclear hnow => by simp [hclear] at hnow⟩
  · exact ⟨fun _ => hset, fun _ _ => hcause⟩

end Sys2Proof.Machine
end

section
/-! SUPPORT. The two buses share nothing (R47, R75, R185): the record of a bus after a run is a fold of the effects of the
instructions that address it. -/

namespace Sys2Proof.Machine

/-- The record of a bus after the instructions `is`, all of which address it. -/
def runEffect (c : Params) (b : BusId) (is : List Instr) (x : BusState) : BusState :=
  is.foldl (fun y i => ownEffect c b i y) x

/-- A run does to a bus what the instructions that address the bus do to its record. -/
theorem bus_of_execAll {is : List Instr} {s u : State} (b : BusId) (hrun : execAll is s = .next u) :
    u.bus b = runEffect s.params b (is.filter fun i => addresses i b) (s.bus b) := by
  induction is generalizing s with
  | nil =>
    obtain rfl : s = u := by simpa using hrun
    rfl
  | cons i is ih =>
    obtain ⟨t, hfirst, hrest⟩ := execAll_cons_next.mp hrun
    have hacts := exec_acts hfirst
    rw [ih hrest, hacts.params, hacts.bus]
    by_cases haddr : addresses i b = true
    · rw [busEffect_of_addresses haddr, List.filter_cons_of_pos (p := fun i => addresses i b) haddr]
      rfl
    · rw [busEffect_of_not_addresses haddr, List.filter_cons_of_neg (p := fun i => addresses i b) haddr]

/-- Settles O58: both records are the same fold from the same record. -/
theorem busesAreIsolated : Obligations.BusesAreIsolated := by
  intro is is' s s' u u' b hbus hparams hinstrs hrun hrun'
  rw [bus_of_execAll b hrun, bus_of_execAll b hrun', hbus, hparams, hinstrs]

end Sys2Proof.Machine
end

section
/-! SUPPORT. The codes of the named field values (R25, R26, R32, R34). -/

namespace Sys2Proof.Machine

@[simp] theorem EngState.ofCode_code (e : EngState) : EngState.ofCode e.code = .ok e := by cases e <;> rfl
@[simp] theorem Dir.ofCode_code (d : Dir) : Dir.ofCode d.code = .ok d := by cases d <;> rfl
@[simp] theorem FeSel.ofCode_code (f : FeSel) : FeSel.ofCode f.code = .ok f := by cases f <;> rfl
@[simp] theorem Phase.ofCode_code (p : Phase) : Phase.ofCode p.code = .ok p := by cases p <;> rfl

/-- Settles O7: every named code reads back, and the last code of each field is no value's. -/
theorem illegalFieldCodesAreFaults : Obligations.IllegalFieldCodesAreFaults :=
  ⟨EngState.ofCode_code, rfl, Dir.ofCode_code, rfl, FeSel.ofCode_code, rfl, Phase.ofCode_code, rfl⟩

end Sys2Proof.Machine
end

section
/-! SUPPORT. The decoder reads back what the encoder writes (R81 to R91): the fields of each layout, how a word is made of its
fields, and the word of each instruction under the decoder of its format. -/

namespace Sys2Proof

/-! ### The fields of a layout (R81, R84, R86, R90) -/

/-- The EV and the CMD layout have the same three fields (R81, R86). -/
theorem evWord_eq_cmdWord (code : BitVec 4) (data : Byte) : evWord code data = cmdWord code 0#4 data := rfl

section
variable (op bus : BitVec 4) (p d : Byte) (k : BitVec 2) (a : BitVec 7) (v : BitVec 1) (b : BusId)

@[simp] theorem cmdWord_opField : (cmdWord op bus p).extractLsb' 12 4 = op := BitVec.extractLsb'_append_eq_left
@[simp] theorem cmdWord_busField : (cmdWord op bus p).extractLsb' 8 4 = bus := by
  rw [cmdWord, BitVec.extractLsb'_append_eq_of_add_le (by decide), BitVec.extractLsb'_append_eq_left]
@[simp] theorem cmdWord_payload : (cmdWord op bus p).extractLsb' 0 8 = p := by
  rw [cmdWord, BitVec.extractLsb'_append_eq_of_add_le (by decide), BitVec.extractLsb'_append_eq_right]

@[simp] theorem wireWord_kind : (wireWord k d).extractLsb' 8 2 = k := BitVec.extractLsb'_append_eq_left
@[simp] theorem wireWord_byte : (wireWord k d).extractLsb' 0 8 = d := BitVec.extractLsb'_append_eq_right

@[simp] theorem addressByte_address : (addressByte a v).extractLsb' 1 7 = a := BitVec.extractLsb'_append_eq_left
@[simp] theorem addressByte_direction : (addressByte a v).extractLsb' 0 1 = v := BitVec.extractLsb'_append_eq_right

@[simp] theorem sqWord_op : (sqWord op b).extractLsb' 4 4 = op := BitVec.extractLsb'_append_eq_left
@[simp] theorem sqWord_zeros : (sqWord op b).extractLsb' 1 3 = 0#3 := by
  rw [sqWord, BitVec.extractLsb'_append_eq_of_add_le (by decide), BitVec.extractLsb'_append_eq_left]
@[simp] theorem sqWord_busBit : (sqWord op b).extractLsb' 0 1 = b.bit := by
  rw [sqWord, BitVec.extractLsb'_append_eq_of_add_le (by decide), BitVec.extractLsb'_append_eq_right]

end

/-! ### A word is made of its fields -/

theorem cmdWord_fields (w : BitVec 16) : cmdWord (w.extractLsb' 12 4) (w.extractLsb' 8 4) (w.extractLsb' 0 8) = w :=
  (Machine.eventWord_eq_append w).symm

theorem wireWord_fields (w : BitVec 10) : wireWord (w.extractLsb' 8 2) (w.extractLsb' 0 8) = w := by
  rw [wireWord, BitVec.extractLsb'_append_extractLsb'_eq_extractLsb' (by rfl)]
  simp

theorem addressByte_fields (d : Byte) : addressByte (d.extractLsb' 1 7) (d.extractLsb' 0 1) = d := by
  rw [addressByte, BitVec.extractLsb'_append_extractLsb'_eq_extractLsb' (by rfl)]
  simp

/-- The bus bit of an SQ word is the bit of the bus that the decoder reads (R90). -/
@[simp] theorem bit_ofBit (v : BitVec 1) : (BusId.ofBit v).bit = v := by revert v; decide

/-- An SQ word whose bus field names a bus that exists (R90, R91). -/
theorem sqWord_fields {w : BitVec 8} (hbus : w.extractLsb' 1 3 = 0#3) :
    sqWord (w.extractLsb' 4 4) (BusId.ofBit (w.extractLsb' 0 1)) = w := by
  rw [sqWord, bit_ofBit, ← hbus, BitVec.extractLsb'_append_extractLsb'_eq_extractLsb' (by rfl),
    BitVec.extractLsb'_append_extractLsb'_eq_extractLsb' (by rfl)]
  simp

/-- A field as arithmetic on the word, as the lists of reserved words give it. -/
theorem toNat_field {n : Nat} (w : BitVec n) (start len : Nat) :
    (w.extractLsb' start len).toNat = w.toNat / 2 ^ start % 2 ^ len := by
  rw [BitVec.extractLsb'_toNat, Nat.shiftRight_eq_div_pow]

theorem field_eq_iff {n start len : Nat} {w : BitVec n} {x : BitVec len} :
    w.extractLsb' start len = x ↔ w.toNat / 2 ^ start % 2 ^ len = x.toNat := by
  rw [BitVec.toNat_eq, toNat_field]

/-! ### The word of an instruction decodes to it -/

theorem decodeEvent_encodeEvent {e : Event} (hwf : e.wellFormed = true) : decodeEvent (encodeEvent e) = .ok e := by
  cases e with
  | txLow n =>
    have hn : n ≠ 0#8 := by simpa [Event.wellFormed] using hwf
    simp [encodeEvent, decodeEvent, evWord_eq_cmdWord, hn]
  | _ => simp [encodeEvent, decodeEvent, evWord_eq_cmdWord]

/-- The word of an event's instruction is the event's word on the port of its bus (R82). -/
theorem encode_instr (b : BusId) (e : Event) : encode (e.instr b) = .ev b (encodeEvent e) := by cases e <;> rfl

/-- An event's instruction has a word exactly when the event has one (R83). -/
theorem wellFormed_instr (b : BusId) (e : Event) : WellFormed (e.instr b) = e.wellFormed := by cases e <;> rfl

theorem decode_encode_instr (b : BusId) {e : Event} (hwf : e.wellFormed = true) :
    decode (encode (e.instr b)) = .ok (e.instr b) := by
  simp only [encode_instr, decode, decodeEv, decodeEvent_encodeEvent hwf]

theorem decode_encode {i : Instr} (hwf : WellFormed i = true) : decode (encode i) = .ok i := by
  cases i with
  | evAddrR b a => exact decode_encode_instr b (e := .addrR a) rfl
  | evAddrW b a => exact decode_encode_instr b (e := .addrW a) rfl
  | evTxLow b n => exact decode_encode_instr b (e := .txLow n) hwf
  | evRxByte b v => exact decode_encode_instr b (e := .rxByte v) rfl
  | evStop b => exact decode_encode_instr b (e := .stop) rfl
  | evErrArb b => exact decode_encode_instr b (e := .errArb) rfl
  | evErrNack b => exact decode_encode_instr b (e := .errNack) rfl
  | evErrTimeout b => exact decode_encode_instr b (e := .errTimeout) rfl
  | evErrOvf b => exact decode_encode_instr b (e := .errOvf) rfl
  | wStartR | wStartW | wWrite | wStop => simp [encode, decode, decodeWire]
  | wRead b nack => cases nack <;> simp [encode, decode, decodeWire]
  | activate | cfg | reset => simp [encode, decode, decodeCmd]
  | start bus a =>
    have hlow : (0#1 ++ a).extractLsb' 7 1 = 0#1 := BitVec.extractLsb'_append_eq_left
    have haddr : (0#1 ++ a).extractLsb' 0 7 = a := BitVec.extractLsb'_append_eq_right
    simp [encode, decode, decodeCmd, hlow, haddr]
  | tick | step | isr | xArb | xTimeout => simp [encode, decode, decodeSq]

/-- Settles O1: the decoder of each format reads back the fields that the layout has put together. -/
theorem decodeReturnsTheEncodedInstruction : Obligations.DecodeReturnsTheEncodedInstruction :=
  fun _ => decode_encode

/-- Settles O6: each of the words is the word of its instruction. -/
theorem wordsOfTheSpecDecode : Obligations.WordsOfTheSpecDecode :=
  ⟨decode_encode (i := .evAddrR .b0 0x25#7) rfl, decode_encode (i := .evAddrW .b0 0x25#7) rfl,
    decode_encode (i := .evTxLow .b1 0x03#8) rfl, decode_encode (i := .evRxByte .b1 0x41#8) rfl,
    decode_encode (i := .evErrNack .b0) rfl, decode_encode (i := .activate 2#4 0x08#8) rfl,
    decode_encode (i := .start 1#4 0x25#7) rfl, decode_encode (i := .reset) rfl, decode_encode (i := .xTimeout .b1) rfl,
    decode_encode (i := .wStartR .b0 0x25#7) rfl, decode_encode (i := .wRead .b1 true) rfl, decode_encode (i := .wStop .b1) rfl⟩

end Sys2Proof
end

section
/-! SUPPORT. A word that decodes is the word of its instruction (R81 to R91): one lemma per format, along the branches of its
decoder, each of which has read all the fields of the word. -/

namespace Sys2Proof

/-- A one-bit field that is not 1 is 0. -/
theorem bit_eq_zero {v : BitVec 1} (h : v ≠ 1#1) : v = 0#1 := by revert v; decide

/-- An address byte with its direction bit read off (R85). -/
theorem addressByte_of_direction {d : Byte} {v : BitVec 1} (hdir : d.extractLsb' 0 1 = v) :
    addressByte (d.extractLsb' 1 7) v = d := by
  rw [← hdir, addressByte_fields]

/-- The payload of START with its top bit read off (R87). -/
theorem startPayload_of_top {p : Byte} (htop : p.extractLsb' 7 1 = 0#1) : 0#1 ++ p.extractLsb' 0 7 = p := by
  rw [← htop, BitVec.extractLsb'_append_extractLsb'_eq_extractLsb' (by rfl)]
  simp

theorem encodeEvent_of_decodeEvent {w : BitVec 16} {e : Event} (hdec : decodeEvent w = .ok e) :
    e.wellFormed = true ∧ encodeEvent e = w := by
  have word {code : BitVec 4} {data : Byte} (hz : ¬w.extractLsb' 8 4 ≠ 0#4) (hcode : w.extractLsb' 12 4 = code)
      (hdata : data = w.extractLsb' 0 8) : evWord code data = w := by
    rw [evWord_eq_cmdWord, ← hcode, hdata, ← not_not.mp hz, cmdWord_fields]
  simp only [decodeEvent, ite_eq_iff, reduceCtorEq, and_false, or_false, false_or, Except.ok.injEq] at hdec
  obtain ⟨hz, ⟨haddr, ⟨hdir, rfl⟩ | ⟨hdir, rfl⟩⟩ | ⟨-, ⟨htx, hzero, rfl⟩ | ⟨-, ⟨hrx, rfl⟩ | ⟨-, hdata, hdec⟩⟩⟩⟩ := hdec
  · exact ⟨rfl, word hz haddr (addressByte_of_direction hdir)⟩
  · exact ⟨rfl, word hz haddr (addressByte_of_direction (bit_eq_zero hdir))⟩
  · exact ⟨decide_eq_true hzero, word hz htx rfl⟩
  · exact ⟨rfl, word hz hrx rfl⟩
  have dataless {code : BitVec 4} (hcode : w.extractLsb' 12 4 = code) : evWord code 0#8 = w :=
    word hz hcode (not_not.mp hdata).symm
  obtain ⟨hstop, rfl⟩ | ⟨-, ⟨harb, rfl⟩ | ⟨-, ⟨hnack, rfl⟩ | ⟨-, ⟨htimeout, rfl⟩ | ⟨-, hovf, rfl⟩⟩⟩⟩ := hdec
  · exact ⟨rfl, dataless hstop⟩
  · exact ⟨rfl, dataless harb⟩
  · exact ⟨rfl, dataless hnack⟩
  · exact ⟨rfl, dataless htimeout⟩
  · exact ⟨rfl, dataless hovf⟩

theorem encode_of_decodeEv {b : BusId} {w : BitVec 16} {i : Instr} (hdec : decodeEv b w = .ok i) :
    WellFormed i = true ∧ encode i = .ev b w := by
  cases hev : decodeEvent w with
  | error r => simp [decodeEv, hev] at hdec
  | ok e =>
    obtain rfl : e.instr b = i := by simpa [decodeEv, hev] using hdec
    obtain ⟨hwf, hword⟩ := encodeEvent_of_decodeEvent hev
    exact ⟨by rw [wellFormed_instr, hwf], by rw [encode_instr, hword]⟩

/-- The byte of a READ slot with its acknowledge bit read off (R84). -/
theorem readByte_of_zero {d : Byte} (hzero : d.extractLsb' 1 7 = 0#7) :
    0#7 ++ BitVec.ofBool (decide (d.extractLsb' 0 1 = 1#1)) = d := by
  have hbit : ∀ v : BitVec 1, BitVec.ofBool (decide (v = 1#1)) = v := by decide
  rw [hbit, ← hzero]
  exact addressByte_fields d

/-- The last case of the 2-bit kind of a W symbol (R84). -/
theorem kind_eq_three {k : BitVec 2} (h0 : k ≠ 0b00#2) (h1 : k ≠ 0b01#2) (h2 : k ≠ 0b10#2) : k = 0b11#2 := by
  revert k; decide

theorem encode_of_decodeWire {b : BusId} {w : BitVec 10} {i : Instr} (hdec : decodeWire b w = .ok i) :
    WellFormed i = true ∧ encode i = .wire b w := by
  have word {k : BitVec 2} {d : Byte} (hk : w.extractLsb' 8 2 = k) (hd : d = w.extractLsb' 0 8) :
      PortWord.wire b (wireWord k d) = .wire b w := by
    rw [← hk, hd, wireWord_fields]
  simp only [decodeWire] at hdec
  split_ifs at hdec with hstart hdir hwrite hread hzero hstop <;> cases hdec
  · exact ⟨rfl, word hstart (addressByte_of_direction hdir)⟩
  · exact ⟨rfl, word hstart (addressByte_of_direction (bit_eq_zero hdir))⟩
  · exact ⟨rfl, word hwrite rfl⟩
  · exact ⟨rfl, word hread (readByte_of_zero hzero)⟩
  · exact ⟨rfl, word (kind_eq_three hstart hwrite hread) hstop.symm⟩

theorem encode_of_decodeCmd {w : BitVec 16} {i : Instr} (hdec : decodeCmd w = .ok i) :
    WellFormed i = true ∧ encode i = .cmd w := by
  have word {op bus : BitVec 4} {p : Byte} (hop : w.extractLsb' 12 4 = op) (hbus : bus = w.extractLsb' 8 4)
      (hp : p = w.extractLsb' 0 8) : PortWord.cmd (cmdWord op bus p) = .cmd w := by
    rw [← hop, hbus, hp, cmdWord_fields]
  simp only [decodeCmd] at hdec
  split_ifs at hdec with hactivate hcfg hstart htop hreset hzero <;> cases hdec
  · exact ⟨rfl, word hactivate rfl rfl⟩
  · exact ⟨rfl, word hcfg rfl rfl⟩
  · exact ⟨rfl, word hstart rfl (startPayload_of_top htop)⟩
  · exact ⟨rfl, word hreset hzero.1.symm hzero.2.symm⟩

theorem encode_of_decodeSq {w : BitVec 8} {i : Instr} (hdec : decodeSq w = .ok i) :
    WellFormed i = true ∧ encode i = .sq w := by
  have word {op : BitVec 4} (hbus : ¬w.extractLsb' 1 3 ≠ 0#3) (hop : w.extractLsb' 4 4 = op) :
      PortWord.sq (sqWord op (BusId.ofBit (w.extractLsb' 0 1))) = .sq w := by
    rw [← hop, sqWord_fields (not_not.mp hbus)]
  simp only [decodeSq] at hdec
  split_ifs at hdec with hbus htick hstep hisr harb htimeout <;> cases hdec
  · exact ⟨rfl, word hbus htick⟩
  · exact ⟨rfl, word hbus hstep⟩
  · exact ⟨rfl, word hbus hisr⟩
  · exact ⟨rfl, word hbus harb⟩
  · exact ⟨rfl, word hbus htimeout⟩

theorem encode_of_decode {p : PortWord} {i : Instr} (hdec : decode p = .ok i) : WellFormed i = true ∧ encode i = p := by
  cases p with
  | ev b w => exact encode_of_decodeEv hdec
  | wire b w => exact encode_of_decodeWire hdec
  | cmd w => exact encode_of_decodeCmd hdec
  | sq w => exact encode_of_decodeSq hdec

/-- Settles O2: along each branch of a decoder, the fields the branch has read make up the word. -/
theorem encodeReturnsTheDecodedWord : Obligations.EncodeReturnsTheDecodedWord :=
  fun _ _ => encode_of_decode

end Sys2Proof
end

section
/-! SUPPORT. The reserved words of each format (R83, R85, R87, R91): where a decoder refuses, as a proposition about the fields
it tests, and from there as arithmetic on the word. -/

namespace Sys2Proof

/-- A decoder refuses through a branch exactly where it takes the branch and refuses there. -/
theorem error_ite {α : Type} {c : Prop} [Decidable c] {x y : Except Reserved α} :
    (∃ r, (if c then x else y) = .error r) ↔ (c ∧ ∃ r, x = .error r) ∨ (¬c ∧ ∃ r, y = .error r) := by
  split_ifs with hc <;> simp [hc]

theorem not_error_ok {α : Type} (x : α) : ¬∃ r : Reserved, (Except.ok x : Except Reserved α) = .error r := nofun

theorem error_error {α : Type} (r : Reserved) : ∃ r', (Except.error r : Except Reserved α) = .error r' := ⟨r, rfl⟩

/-- Settles O4: the fields on which the decoder refuses an EV word, as arithmetic. -/
theorem reservedEventWords : Obligations.ReservedEventWords := by
  intro w
  simp only [decodeEvent, error_ite, not_error_ok, error_error, and_false, and_true, false_or, or_false, ne_eq, field_eq_iff,
    BitVec.toNat_ofNat]
  omega

/-- Settles O5: the fields on which each of the three decoders refuses a word, as arithmetic. -/
theorem reservedWireCommandAndSchedulerWords : Obligations.ReservedWireCommandAndSchedulerWords := by
  refine ⟨fun b w => ?wire, fun w => ?cmd, fun w => ?sq⟩
  all_goals
    simp only [decode, decodeWire, decodeCmd, decodeSq, error_ite, not_error_ok, error_error, and_false, and_true, false_or,
      or_false, ne_eq, field_eq_iff, toNat_field, BitVec.toNat_ofNat]
    omega

/-- The decoder of an EV port refuses what the decoder of events refuses (R82). -/
theorem decodeEv_error_iff {b : BusId} {w : BitVec 16} :
    (∃ r, decodeEv b w = .error r) ↔ ∃ r, decodeEvent w = .error r := by
  cases hev : decodeEvent w <;> simp [decodeEv, hev]

end Sys2Proof
end

section
/-! SUPPORT. The opcode table against the decoder (R82, R84, R87, R90, R95): a word is in a row only where the decoder does not
refuse it, two rows share no word, and the word of an instruction is in the instruction's row (Laws/PerInstr.lean). -/

namespace Sys2Proof

/-! ### What the rows fix -/

theorem Row.holds_iff {r : Row} {p : PortWord} :
    r.holds p = true ↔
      p.format = r.format ∧ p.bits &&& r.mask = r.pattern ∧ (r.nonzero = 0#16 ∨ p.bits &&& r.nonzero ≠ 0#16) := by
  simp [Row.holds, and_assoc]

theorem toNat_bits_wire (b : BusId) (w : BitVec 10) : (PortWord.wire b w).bits.toNat = w.toNat :=
  BitVec.toNat_setWidth_of_le (by decide)

theorem toNat_bits_sq (w : BitVec 8) : (PortWord.sq w).bits.toNat = w.toNat := BitVec.toNat_setWidth_of_le (by decide)

/-- The row fixes a field: its mask covers the field, and its pattern has the value `v` there. -/
abbrev Row.Fixes (r : Row) (start len v : Nat) : Prop :=
  r.mask.extractLsb' start len = BitVec.allOnes len ∧ (r.pattern.extractLsb' start len).toNat = v

/-- Every word of a row has the value of a field that the row fixes. -/
theorem Row.field_of_holds {r : Row} {p : PortWord} (hholds : r.holds p = true) {start len v : Nat}
    (hfix : r.Fixes start len v) : p.bits.toNat / 2 ^ start % 2 ^ len = v := by
  obtain ⟨-, hbits, -⟩ := Row.holds_iff.mp hholds
  obtain ⟨hmask, hpattern⟩ := hfix
  rw [← hpattern, ← field_eq_iff, ← hbits, BitVec.extractLsb'_and, hmask, BitVec.and_allOnes]

/-- What the EV rows of the table fix, TX_LOW last (R82). -/
theorem evRows_fix : ∀ r ∈ opcodeRows, r.format = .ev →
    r.Fixes 8 8 0x10 ∨ r.Fixes 8 8 0x30 ∨ r.Fixes 0 16 0x4000 ∨ r.Fixes 0 16 0x8000 ∨ r.Fixes 0 16 0x9000 ∨
    r.Fixes 0 16 0xA000 ∨ r.Fixes 0 16 0xB000 ∨ (r.Fixes 8 8 0x20 ∧ r.nonzero = 0x00FF#16) := by decide

/-- What the W rows of the table fix (R84). -/
theorem wireRows_fix : ∀ r ∈ opcodeRows, r.format = .w →
    r.Fixes 8 2 0 ∨ r.Fixes 8 2 1 ∨ r.Fixes 1 9 0x100 ∨ r.Fixes 0 10 0x300 := by decide

/-- What the CMD rows of the table fix, START last (R87). -/
theorem cmdRows_fix : ∀ r ∈ opcodeRows, r.format = .cmd →
    r.Fixes 12 4 1 ∨ r.Fixes 12 4 2 ∨ r.Fixes 0 16 0xF000 ∨ (r.Fixes 12 4 3 ∧ r.Fixes 7 1 0) := by decide

/-- What the SQ rows of the table fix: the op and the three upper bits of the bus (R90). -/
theorem sqRows_fix : ∀ r ∈ opcodeRows, r.format = .sq →
    r.Fixes 1 7 0x08 ∨ r.Fixes 1 7 0x10 ∨ r.Fixes 1 7 0x18 ∨ r.Fixes 1 7 0x20 ∨ r.Fixes 1 7 0x28 := by decide

/-! ### A word in a row is not reserved -/

/-- The data that TX_LOW's row asks for (R83). -/
theorem data_ne_zero {w : BitVec 16} (h : w &&& 0x00FF#16 ≠ 0#16) : w.toNat % 256 ≠ 0 := by
  intro hzero
  apply h
  apply BitVec.eq_of_toNat_eq
  rw [BitVec.toNat_and]
  exact (Nat.and_two_pow_sub_one_eq_mod w.toNat 8).trans hzero

section
variable {r : Row} {b : BusId}

theorem not_error_of_holds_ev {w : BitVec 16} (hr : r ∈ opcodeRows) (hholds : r.holds (.ev b w) = true) :
    ¬∃ e, decode (.ev b w) = .error e := by
  obtain ⟨hformat, -, hnonzero⟩ := Row.holds_iff.mp hholds
  have field {start len v : Nat} (hfix : r.Fixes start len v) : w.toNat / 2 ^ start % 2 ^ len = v :=
    Row.field_of_holds hholds hfix
  rw [decode, decodeEv_error_iff, reservedEventWords]
  rcases evRows_fix r hr hformat.symm with hfix | hfix | hfix | hfix | hfix | hfix | hfix | ⟨hfix, hmask⟩
  case inr.inr.inr.inr.inr.inr.inr =>
    have hcode := field hfix
    have hdata : w.toNat % 256 ≠ 0 := data_ne_zero (by simpa [hmask, PortWord.bits] using hnonzero)
    omega
  all_goals
    have hfield := field hfix
    omega

theorem not_error_of_holds_wire {w : BitVec 10} (hr : r ∈ opcodeRows) (hholds : r.holds (.wire b w) = true) :
    ¬∃ e, decode (.wire b w) = .error e := by
  obtain ⟨hformat, -, -⟩ := Row.holds_iff.mp hholds
  obtain ⟨hreserved, -, -⟩ := reservedWireCommandAndSchedulerWords
  rw [hreserved]
  rcases wireRows_fix r hr hformat.symm with hfix | hfix | hfix | hfix
  all_goals
    have hfield := Row.field_of_holds hholds hfix
    rw [toNat_bits_wire] at hfield
    omega

theorem not_error_of_holds_cmd {w : BitVec 16} (hr : r ∈ opcodeRows) (hholds : r.holds (.cmd w) = true) :
    ¬∃ e, decode (.cmd w) = .error e := by
  obtain ⟨hformat, -, -⟩ := Row.holds_iff.mp hholds
  obtain ⟨-, hreserved, -⟩ := reservedWireCommandAndSchedulerWords
  have field {start len v : Nat} (hfix : r.Fixes start len v) : w.toNat / 2 ^ start % 2 ^ len = v :=
    Row.field_of_holds hholds hfix
  rw [hreserved]
  rcases cmdRows_fix r hr hformat.symm with hfix | hfix | hfix | ⟨hfix, htop⟩
  case inr.inr.inr =>
    have hop := field hfix
    have hpayload := field htop
    omega
  all_goals
    have hfield := field hfix
    omega

theorem not_error_of_holds_sq {w : BitVec 8} (hr : r ∈ opcodeRows) (hholds : r.holds (.sq w) = true) :
    ¬∃ e, decode (.sq w) = .error e := by
  obtain ⟨hformat, -, -⟩ := Row.holds_iff.mp hholds
  obtain ⟨-, -, hreserved⟩ := reservedWireCommandAndSchedulerWords
  rw [hreserved]
  rcases sqRows_fix r hr hformat.symm with hfix | hfix | hfix | hfix | hfix
  all_goals
    have hfield := Row.field_of_holds hholds hfix
    rw [toNat_bits_sq] at hfield
    omega

end

/-- A reserved word is in no row (R95). -/
theorem not_error_of_holds {r : Row} {p : PortWord} (hr : r ∈ opcodeRows) (hholds : r.holds p = true) :
    ¬∃ e, decode p = .error e := by
  cases p with
  | ev b w => exact not_error_of_holds_ev hr hholds
  | wire b w => exact not_error_of_holds_wire hr hholds
  | cmd w => exact not_error_of_holds_cmd hr hholds
  | sq w => exact not_error_of_holds_sq hr hholds

/-! ### A word is in one row at most, and an instruction's word in the instruction's row -/

/-- The masks of two rows of a format share a bit on which their patterns differ (R95). -/
theorem eq_of_rows_agree : ∀ r ∈ opcodeRows, ∀ r' ∈ opcodeRows,
    r.format = r'.format → r.pattern &&& r'.mask = r'.pattern &&& r.mask → r = r' := by decide

theorem row_unique {r r' : Row} {p : PortWord} (hr : r ∈ opcodeRows) (hr' : r' ∈ opcodeRows) (hholds : r.holds p = true)
    (hholds' : r'.holds p = true) : r = r' := by
  obtain ⟨hformat, hbits, -⟩ := Row.holds_iff.mp hholds
  obtain ⟨hformat', hbits', -⟩ := Row.holds_iff.mp hholds'
  refine eq_of_rows_agree r hr r' hr' (hformat.symm.trans hformat') ?_
  rw [← hbits, ← hbits', BitVec.and_assoc, BitVec.and_assoc, BitVec.and_comm r.mask]

theorem opcodeRows_nodup : opcodeRows.Nodup := by decide

theorem rowOf_mem (i : Instr) : rowOf i ∈ opcodeRows := by
  cases i <;> simp [opcodeRows, rowOf]

theorem rowOf_holds {i : Instr} (hwf : WellFormed i = true) : (rowOf i).holds (encode i) = true := by
  suffices hrow : Laws.MatchesRow.Statement i from hrow hwf
  open Laws.MatchesRow in
  cases i
  exacts [evAddrR _ _, evAddrW _ _, evTxLow _ _, evRxByte _ _, evStop _, evErrArb _, evErrNack _, evErrTimeout _, evErrOvf _,
    wStartR _ _, wStartW _ _, wWrite _ _, wRead _ _, wStop _, activate _ _, cfg _ _, start _ _, reset, tick _, step _, isr _,
    xArb _, xTimeout _]

/-- The rows that hold the word of an instruction are that instruction's row alone (R95). -/
theorem rows_of_encode {i : Instr} (hwf : WellFormed i = true) : opcodeRows.filter (fun r => r.holds (encode i)) = [rowOf i] := by
  have hrow : ∀ r ∈ opcodeRows, r.holds (encode i) = decide (r = rowOf i) := by
    intro r hr
    rw [Bool.eq_iff_iff, decide_eq_true_iff]
    constructor
    · exact fun hholds => row_unique hr (rowOf_mem i) hholds (rowOf_holds hwf)
    · rintro rfl
      exact rowOf_holds hwf
  rw [List.filter_congr hrow, List.filter_eq, List.count_eq_one_of_mem opcodeRows_nodup (rowOf_mem i), List.replicate_one]

/-- Settles O3: a refused word is in no row, and a decoded one is the word of its instruction. -/
theorem everyWordIsReservedOrInOneRow : Obligations.EveryWordIsReservedOrInOneRow := by
  intro p
  cases hdec : decode p with
  | error e =>
    refine .inl ⟨⟨e, rfl⟩, List.filter_eq_nil_iff.mpr fun r hr hholds => ?_⟩
    exact not_error_of_holds hr hholds ⟨e, hdec⟩
  | ok i =>
    obtain ⟨hwf, rfl⟩ := encode_of_decode hdec
    exact .inr ⟨i, rfl, rows_of_encode hwf⟩

end Sys2Proof
end

section
/-! SUPPORT. Steps that are not enabled (R91, R110, R179, R212, R213): each is not taken, and the state stays as it is (log
entry 3). -/

namespace Sys2Proof.Machine

section
variable {s : State} {b : BusId} {x : BusState}

/-- STEP has no step in IDLE (R179). -/
theorem stepEnabled_of_idle (hphase : x.phase = .idle) : x.stepEnabled = false := by
  simp only [BusState.stepEnabled, hphase]

/-- STEP waits for the timer of a timed phase (R179). -/
theorem stepEnabled_of_running (hphase : x.phase ∈ [Phase.assert, .hold, .rassert, .rhold]) (htimer : 0 < x.timer) :
    x.stepEnabled = false := by
  have hne : decide (x.timer = 0) = false := decide_eq_false htimer.ne'
  simp only [List.mem_cons, List.not_mem_nil, or_false] at hphase
  rcases hphase with hphase | hphase | hphase | hphase
  all_goals simp only [BusState.stepEnabled, hphase, hne]

theorem exec_isr_of_no_event (hq : (s.bus b).evq = []) : exec (.isr b) s = .next s := by
  rcases execIsr_cases b s with ⟨-, hrun⟩ | ⟨w, rest, r, hpending, -⟩ | ⟨w, rest, e, hpending, -⟩
  · exact hrun
  all_goals
    rw [hq] at hpending
    contradiction

theorem exec_step_of_not_enabled (h : (s.bus b).stepEnabled = false) : exec (.step b) s = .next s :=
  congrArg Host.Outcome.next (if_neg (by simp [h]))

theorem exec_xArb_of_not_enabled (h : (s.bus b).arbEnabled = false) : exec (.xArb b) s = .next s :=
  congrArg Host.Outcome.next (if_neg (by simp [h]))

theorem exec_xTimeout_of_not_enabled (h : (s.bus b).timeoutEnabled = false) : exec (.xTimeout b) s = .next s :=
  congrArg Host.Outcome.next (if_neg (by simp [h]))

end

/-- Settles O12: in each of the five cases the step of the agent is not enabled. -/
theorem stepsThatAreNotEnabledAreNotTaken : Obligations.StepsThatAreNotEnabledAreNotTaken := by
  intro s b
  refine ⟨exec_isr_of_no_event, ?idle, ?running, ?arb, exec_xTimeout_of_not_enabled⟩
  case idle => exact fun hphase => exec_step_of_not_enabled (stepEnabled_of_idle hphase)
  case running => exact fun hphase htimer => exec_step_of_not_enabled (stepEnabled_of_running hphase htimer)
  case arb => exact fun hsel => exec_xArb_of_not_enabled (decide_eq_false hsel)

end Sys2Proof.Machine
end

section
/-! SUPPORT. Handler steps (file 40): what ISR does for each kind of queue head, which instructions are handler steps, and which
fields a handler step keeps (R110, R121, R124). -/

namespace Sys2Proof

/-- The decoder of an EV port names the event's instruction on the port's bus (R82). -/
theorem decode_ev_ok_iff {b : BusId} {w : BitVec 16} {i : Instr} :
    decode (.ev b w) = .ok i ↔ ∃ e, decodeEvent w = .ok e ∧ e.instr b = i := by
  cases hev : decodeEvent w <;> simp [decode, decodeEv, hev]

theorem decode_ev_error_iff {b : BusId} {w : BitVec 16} {r : Reserved} :
    decode (.ev b w) = .error r ↔ decodeEvent w = .error r := by
  cases hev : decodeEvent w <;> simp [decode, decodeEv, hev]

end Sys2Proof

namespace Sys2Proof.Machine

/-! ### What a handler step answers -/

section
variable {s : State} {b : BusId} {w : BitVec 16} {rest : List (BitVec 16)}

/-- An event rule updates its bus's record by the rule's effect and nothing else (R110). -/
theorem exec_instr (b : BusId) (e : Event) (s : State) : exec (e.instr b) s = .next (s.onBus b (eventEffect s.params b e)) := by
  rw [← handleEvent_eq_exec, handleEvent_eq]

/-- ISR with a defined event at the head takes it and runs its rule (R110). -/
theorem exec_isr_of_event {e : Event} (hq : (s.bus b).evq = w :: rest) (hdec : decodeEvent w = .ok e) :
    exec (.isr b) s = exec (e.instr b) (s.onBus b BusState.takeEvent) := by
  rw [← handleEvent_eq_exec]
  show execIsr b s = _
  simp only [execIsr, hq, hdec]

/-- ISR with a reserved word at the head is refused (R121). -/
theorem exec_isr_of_reserved {r : Reserved} (hq : (s.bus b).evq = w :: rest) (hdec : decodeEvent w = .error r) :
    exec (.isr b) s = .next s.markRefused := by
  show execIsr b s = _
  simp only [execIsr, hq, hdec]

/-- No event rule touches the queue: what is pending behind the event stays so (R110). -/
theorem evq_eventEffect (c : Params) (b : BusId) (e : Event) (x : BusState) : (eventEffect c b e x).evq = x.evq := by
  obtain ⟨-, -, -, -, -, -, -, -, -, -, -, -, -, hevq⟩ := eventEffect_frame c b e x
  exact hevq

/-- Taking the head of the queue leaves the rest of it. -/
theorem onBus_takeEvent (hq : (s.bus b).evq = w :: rest) :
    s.onBus b BusState.takeEvent = s.setBus b { s.bus b with evq := rest } := by
  rw [State.onBus, BusState.takeEvent_eq, hq, List.tail_cons]

end

/-! ### Which instructions are handler steps -/

/-- A handler step of a bus is its ISR or the rule of an event on it. -/
theorem eq_isr_or_instr_of_handlerBus {i : Instr} {b : BusId} (h : handlerBus i = some b) :
    i = .isr b ∨ ∃ e : Event, i = e.instr b := by
  cases i with
  | isr => exact .inl (congrArg Instr.isr (Option.some.inj h))
  | evAddrR b' a => cases h; exact .inr ⟨.addrR a, rfl⟩
  | evAddrW b' a => cases h; exact .inr ⟨.addrW a, rfl⟩
  | evTxLow b' n => cases h; exact .inr ⟨.txLow n, rfl⟩
  | evRxByte b' v => cases h; exact .inr ⟨.rxByte v, rfl⟩
  | evStop => cases h; exact .inr ⟨.stop, rfl⟩
  | evErrArb => cases h; exact .inr ⟨.errArb, rfl⟩
  | evErrNack => cases h; exact .inr ⟨.errNack, rfl⟩
  | evErrTimeout => cases h; exact .inr ⟨.errTimeout, rfl⟩
  | evErrOvf => cases h; exact .inr ⟨.errOvf, rfl⟩
  | wStartR | wStartW | wWrite | wRead | wStop | activate | cfg | start | reset | tick | step | xArb | xTimeout => cases h

/-- A handler step addresses its own bus and no other (R47). -/
theorem addresses_of_handlerBus {i : Instr} {b : BusId} (h : handlerBus i = some b) (b' : BusId) :
    addresses i b' = (b == b') := by
  obtain rfl | ⟨e, rfl⟩ := eq_isr_or_instr_of_handlerBus h
  · rfl
  · cases e <;> rfl

/-- The effect of an event's instruction is the effect of the event's rule. -/
theorem ownEffect_instr (c : Params) (b : BusId) (e : Event) : ownEffect c b (e.instr b) = eventEffect c b e := by
  cases e <;> rfl

/-! ### What a handler step keeps -/

/-- The fields of a record that are not the dispatcher's (R124): `y` has them as `x` has them. -/
structure KeepsOutsideDispatcher (x y : BusState) : Prop where
  img : y.img = x.img
  phase : y.phase = x.phase
  seqMask : y.seqMask = x.seqMask
  timer : y.timer = x.timer
  attn : y.attn = x.attn
  configured : y.configured = x.configured
  ownAddr : y.ownAddr = x.ownAddr
  engineEn : y.engineEn = x.engineEn
  feSel : y.feSel = x.feSel
  feActive : y.feActive = x.feActive
  underrun : y.underrun = x.underrun
  draws : y.draws = x.draws
  masterObs : y.masterObs = x.masterObs

theorem KeepsOutsideDispatcher.refl (x : BusState) : KeepsOutsideDispatcher x x := by constructor <;> rfl

theorem eventEffect_keeps (c : Params) (b : BusId) (e : Event) (x : BusState) :
    KeepsOutsideDispatcher x (eventEffect c b e x) := by
  obtain ⟨himg, hphase, hmask, htimer, hattn, hconf, haddr, hen, hsel, hact, hunder, hdraws, hobs, -⟩ := eventEffect_frame c b e x
  exact ⟨himg, hphase, hmask, htimer, hattn, hconf, haddr, hen, hsel, hact, hunder, hdraws, hobs⟩

/-- ISR keeps what the rule it runs keeps: taking the event writes the queue alone. -/
theorem isrEffect_keeps (c : Params) (b : BusId) (x : BusState) : KeepsOutsideDispatcher x (isrEffect c b x) := by
  unfold isrEffect
  split
  next => exact .refl x
  next =>
    split
    next e _ => exact { eventEffect_keeps c b e x.takeEvent with }
    next => exact .refl x

theorem ownEffect_keeps_of_handlerBus {i : Instr} {b : BusId} (h : handlerBus i = some b) (c : Params) (x : BusState) :
    KeepsOutsideDispatcher x (ownEffect c b i x) := by
  obtain rfl | ⟨e, rfl⟩ := eq_isr_or_instr_of_handlerBus h
  · exact isrEffect_keeps c b x
  · rw [ownEffect_instr]
    exact eventEffect_keeps c b e x

/-- A handler step returns nothing to the host (R88). -/
theorem cmdResult_of_handlerBus {i : Instr} {b : BusId} {s t : State} (h : handlerBus i = some b) (hrun : exec i s = .next t) :
    t.cmdResult = s.cmdResult := by
  obtain rfl | ⟨e, rfl⟩ := eq_isr_or_instr_of_handlerBus h
  · cases hq : (s.bus b).evq with
    | nil =>
      cases (exec_isr_of_no_event hq).symm.trans hrun
      rfl
    | cons w rest =>
      cases hdec : decodeEvent w with
      | error r =>
        cases (exec_isr_of_reserved hq hdec).symm.trans hrun
        rfl
      | ok e =>
        rw [exec_isr_of_event hq hdec, exec_instr] at hrun
        cases hrun
        rw [State.cmdResult_onBus, State.cmdResult_onBus]
  · cases (exec_instr b e s).symm.trans hrun
    rw [State.cmdResult_onBus]

/-! ### The statements about handler steps -/

/-- Settles O22: the handler's bus changes by an effect that keeps the fields outside the dispatcher, the other bus is not
addressed, and nothing is returned to the host. -/
theorem handlerWritesOnlyDispatcherFields : Obligations.HandlerWritesOnlyDispatcherFields := by
  intro i b s hi
  obtain ⟨t, hrun, hacts⟩ := exec_answers i s
  have hown : t.bus b = ownEffect s.params b i (s.bus b) := by
    rw [hacts.bus, busEffect_of_addresses (by simp [addresses_of_handlerBus hi])]
  have hother : t.bus b.other = s.bus b.other := by
    rw [hacts.bus, busEffect_of_not_addresses (by simp [addresses_of_handlerBus hi, (BusId.other_ne b).symm])]
  have hkeeps : KeepsOutsideDispatcher (s.bus b) (t.bus b) := hown ▸ ownEffect_keeps_of_handlerBus hi s.params (s.bus b)
  exact ⟨t, hrun, fun a => by rw [hkeeps.img], hkeeps.phase, hkeeps.seqMask, hkeeps.timer, hkeeps.attn, hkeeps.configured,
    hkeeps.ownAddr, hkeeps.engineEn, hkeeps.feSel, hkeeps.feActive, hkeeps.underrun, hkeeps.draws, hkeeps.masterObs, hother,
    hacts.params, cmdResult_of_handlerBus hi hrun, hacts.schedule⟩

/-- Settles O10: the event is taken, its rule is run on what is left, and the rule does not touch the queue. -/
theorem isrRunsTheOldestEvent : Obligations.IsrRunsTheOldestEvent := by
  intro s b w rest i hq hdec
  obtain ⟨e, hev, rfl⟩ := decode_ev_ok_iff.mp hdec
  rw [exec_isr_of_event hq hev, onBus_takeEvent hq, exec_instr]
  exact ⟨_, rfl, rfl, by rw [State.bus_onBus_same, evq_eventEffect, State.bus_setBus_same]⟩

/-- Settles O11: a reserved EV word is one that the decoder of events refuses. -/
theorem isrRefusesAReservedEvent : Obligations.IsrRefusesAReservedEvent := by
  intro s b w rest r hq hdec
  exact exec_isr_of_reserved hq (decode_ev_error_iff.mp hdec)

/-- Settles O13: the effects of all instructions, tied to `exec` in `exec_answers`, give the next state. -/
theorem everyInstructionAnswersANextState : Obligations.EveryInstructionAnswersANextState := by
  intro i s
  obtain ⟨t, hrun, -⟩ := exec_answers i s
  exact ⟨t, hrun⟩

end Sys2Proof.Machine
end

section
/-! SUPPORT. The event rules (R111 to R120), each as the whole record it leaves, and the statements about them. -/

namespace Sys2Proof.Machine

/-! ### The record each rule leaves -/

section
variable {c : Params} {b : BusId} {x : BusState}

/-- Up to five bytes served from byte 0 on are the snapshot's first bytes (R112). -/
theorem served_zero_eq_take (s : Image) {n : Nat} (hn : n ≤ 5) : served s 0 n = s.toList.take n := by
  apply List.ext_getElem
  · simp [hn]
  · intro k hk _
    have hk5 : k % 5 = k := Nat.mod_eq_of_lt (by rw [length_served] at hk; omega)
    simp [getElem_served, hk5]

/-- A push writes the transmit FIFO and the read pointer alone (R114). -/
theorem BusState.push_eq (x : BusState) (s : Image) (n : Nat) :
    x.push s n = { x with txf := x.txf ++ served s x.rp.val n, rp := Fin.ofNat 5 (x.rp.val + n) } := rfl

/-- ADDR_R (R112). -/
theorem onAddressRead_eq (c : Params) (b : BusId) (x : BusState) :
    onAddressRead c b x = { x with
      txf := (snapshot c b x).toList.take (min 5 c.raw.txDepth)
      rp := Fin.ofNat 5 (min 5 c.raw.txDepth)
      dir := .read
      engState := .addressed } := by
  rw [onAddressRead, BusState.push_eq, BusState.toAddressed_eq, ← served_zero_eq_take _ (Nat.min_le_left _ _)]
  simp

/-- A record that is not in a transaction of direction `d`, as the else branches of R114 and R115 read it. -/
theorem not_inside {d : Dir} (h : x.dir ≠ d ∨ x.engState = .idle) : ¬(x.dir = d ∧ x.engState ≠ .idle) :=
  fun ⟨hdir, heng⟩ => h.elim (· hdir) heng

/-- RX_BYTE inside a write transaction with room in the buffer (R115). -/
theorem onRxByte_of_lt (v : Byte) (h : x.dir = .write ∧ x.engState ≠ .idle) (hroom : x.widx < c.raw.wbufLen) :
    onRxByte c v x = { x with
      rxf := x.rxf.tail
      wbuf := x.wbuf.write x.widx v
      widx := x.widx + 1
      engState := .transferring } := by
  rw [onRxByte_inside v h, if_pos hroom, if_pos hroom]

/-- RX_BYTE inside a write transaction with the buffer full (R115). -/
theorem onRxByte_of_le (v : Byte) (h : x.dir = .write ∧ x.engState ≠ .idle) (hfull : c.raw.wbufLen ≤ x.widx) :
    onRxByte c v x = { x with rxf := x.rxf.tail, engState := .transferring } := by
  rw [onRxByte_inside v h, if_neg hfull.not_gt, if_neg hfull.not_gt]

/-- An event rule's answer, from the record its effect leaves. -/
theorem exec_instr_of_effect {s : State} {e : Event} {y : BusState} (heff : eventEffect s.params b e (s.bus b) = y) :
    exec (e.instr b) s = .next (s.setBus b y) := by
  rw [exec_instr, State.onBus, heff]

end

/-! ### The statements about the event rules -/

/-- Settles O14: the push of ADDR_R starts at byte 0 and never wraps, so it takes the first bytes of the snapshot. -/
theorem addressMatchReadFillsFromByteZero : Obligations.AddressMatchReadFillsFromByteZero := by
  intro s b a
  exact exec_instr_of_effect (e := .addrR a) (onAddressRead_eq s.params b (s.bus b))

/-- Settles O15: besides the index, the rule writes what entering a transaction writes. -/
theorem addressMatchWriteResetsTheIndex : Obligations.AddressMatchWriteResetsTheIndex := by
  intro s b a
  exact exec_instr_of_effect (e := .addrW a) (BusState.toAddressed_eq .write _)

/-- Settles O16: the bytes are those served from the read pointer on. -/
theorem txLowRefillsTheFreeSpace : Obligations.TxLowRefillsTheFreeSpace := by
  intro s b room hdir heng
  refine ⟨served (snapshot s.params b (s.bus b)) (s.bus b).rp.val (s.params.raw.txDepth - (s.bus b).txf.length),
    length_served .., ?bytes, ?run⟩
  case bytes =>
    intro k hk
    have hmod : ((s.bus b).rp.val + k) % 5 < 5 := Nat.mod_lt _ (by decide)
    rw [List.getElem?_eq_getElem hk, getElem_served]
    simp [hmod]
  case run =>
    rw [length_served]
    exact exec_instr_of_effect (e := .txLow room) (onTxLow_inside ⟨hdir, heng⟩)

/-- Settles O17: the else branches of R114 and R115. -/
theorem eventsOutsideTheirTransactionChangeLittle : Obligations.EventsOutsideTheirTransactionChangeLittle := by
  intro s b v
  refine ⟨fun hout => ?txLow, fun hout => ?rxByte⟩
  case txLow =>
    have hrun := exec_instr_of_effect (s := s) (e := .txLow v) (onTxLow_outside (b := b) (not_inside hout))
    rwa [State.setBus_bus] at hrun
  case rxByte => exact exec_instr_of_effect (e := .rxByte v) (onRxByte_outside v (not_inside hout))

/-- Settles O18: the buffer's other bytes are kept because a write changes one byte of a space in canonical form. -/
theorem receivedByteIsStoredAtTheIndex : Obligations.ReceivedByteIsStoredAtTheIndex := by
  intro s b v hdir heng hroom hwf
  refine ⟨_, exec_instr_of_effect (e := .rxByte v) (onRxByte_of_lt v ⟨hdir, heng⟩ hroom), fun a => ?read, ?frame⟩
  case read =>
    rw [State.bus_setBus_same]
    exact Memory.read_write hwf _ _ _
  case frame => rw [State.bus_setBus_same]

/-- Settles O19: of the rule's three writes only the drain and the engine state are left. -/
theorem receivedByteIsDroppedWhenTheBufferIsFull : Obligations.ReceivedByteIsDroppedWhenTheBufferIsFull := by
  intro s b v hdir heng hfull
  exact exec_instr_of_effect (e := .rxByte v) (onRxByte_of_le v ⟨hdir, heng⟩ hfull)

/-- Settles O20: the five events share one rule, the return to idle. -/
theorem stopAndErrorsReturnToIdle : Obligations.StopAndErrorsReturnToIdle := by
  intro s b i hi
  have hidle := BusState.toIdle_eq (s.bus b)
  simp only [List.mem_cons, List.not_mem_nil, or_false] at hi
  obtain rfl | rfl | rfl | rfl | rfl := hi
  · exact exec_instr_of_effect (e := .stop) hidle
  · exact exec_instr_of_effect (e := .errArb) hidle
  · exact exec_instr_of_effect (e := .errNack) hidle
  · exact exec_instr_of_effect (e := .errTimeout) hidle
  · exact exec_instr_of_effect (e := .errOvf) hidle

/-- Settles O21: the two conditional rules by their branches, the others by what they write. -/
theorem engineTransitions : Obligations.EngineTransitions := by
  intro s b e
  refine ⟨_, exec_instr b e s, ?_⟩
  rw [State.bus_onBus_same]
  cases e with
  | addrR a => rfl
  | addrW a => rfl
  | txLow n =>
    dsimp only [eventEffect]
    split
    next hin =>
      rw [onTxLow_inside hin]
      exact Prod.ext rfl hin.1
    next hout => rw [onTxLow_outside hout]
  | rxByte v =>
    dsimp only [eventEffect]
    split
    next hin =>
      rw [onRxByte_inside v hin]
      exact Prod.ext rfl hin.1
    next hout => rw [onRxByte_outside v hout]
  | stop | errArb | errNack | errTimeout | errOvf => rfl

end Sys2Proof.Machine
end

section
/-! SUPPORT. The register image: what CFG answers in each of its cases (R154, R238), and which instructions write an image byte
(R65, R155). -/

namespace Sys2Proof.Machine

/-! ### What CFG answers -/

/-- Buses 2 to 15 do not exist (R86). -/
theorem BusId.ofField_eq_none {bus : BitVec 4} (h : 2 ≤ bus.toNat) : BusId.ofField bus = none := by
  have h0 : bus ≠ 0#4 := by rintro rfl; exact absurd h (by decide)
  have h1 : bus ≠ 1#4 := by rintro rfl; exact absurd h (by decide)
  rw [BusId.ofField, if_neg h0, if_neg h1]

theorem classDefined_iff {cls : Byte} : classDefined cls = true ↔ cls ∈ [0x02#8, 0x03#8, 0x06#8] := by
  simp [classDefined, or_assoc]

section
variable {s : State} {bus : BitVec 4} {b : BusId} {cls : Byte}

theorem exec_cfg_of_no_bus (hbus : BusId.ofField bus = none) : exec (.cfg bus cls) s = .next (s.reply .busUnavailable) := by
  show execCfg bus cls s = _
  simp only [execCfg, hbus]

theorem exec_cfg_of_busy (hbus : BusId.ofField bus = some b) (hphase : (s.bus b).phase ≠ .idle) :
    exec (.cfg bus cls) s = .next (s.reply .busy) := by
  show execCfg bus cls s = _
  simp [execCfg, hbus, BusState.busy, hphase]

theorem exec_cfg_of_undefined (hbus : BusId.ofField bus = some b) (hphase : (s.bus b).phase = .idle)
    (hcls : ¬classDefined cls = true) : exec (.cfg bus cls) s = .next s.markRefused := by
  show execCfg bus cls s = _
  simp [execCfg, hbus, BusState.busy, hphase, hcls]

theorem exec_cfg_of_accepted (hbus : BusId.ofField bus = some b) (hphase : (s.bus b).phase = .idle)
    (hcls : classDefined cls = true) :
    exec (.cfg bus cls) s = .next ((s.onBus b (configureBus s.params b cls)).reply .ok) := by
  show execCfg bus cls s = _
  simp [execCfg, hbus, BusState.busy, hphase, hcls]

end

/-- Settles O38: an accepted CFG writes the image by `writeImage`, whose bytes 0 to 4 are the five listed. -/
theorem cfgWritesTheWholeImage : Obligations.CfgWritesTheWholeImage := by
  intro s bus b cls hbus hphase hcls hwf
  refine ⟨_, exec_cfg_of_accepted hbus hphase (classDefined_iff.mpr hcls), fun a => ?read, ?frame⟩
  case read =>
    rw [State.bus_reply, State.bus_onBus_same]
    refine (read_writeImage hwf _ a).trans ?_
    match a with
    | 0 | 1 | 2 | 3 | 4 => rfl
    | n + 5 => simp
  case frame =>
    rw [State.bus_reply, State.bus_onBus_same]
    rfl

/-- Settles O39: the three refusals of CFG, in the order of its checks. -/
theorem cfgReturnsTheFirstError : Obligations.CfgReturnsTheFirstError := by
  intro s bus cls
  refine ⟨fun hbus => exec_cfg_of_no_bus (BusId.ofField_eq_none hbus), fun b hbus => ⟨exec_cfg_of_busy hbus, ?undefined⟩⟩
  case undefined =>
    intro hphase hcls
    exact exec_cfg_of_undefined hbus hphase (mt classDefined_iff.mp hcls)

/-! ### Effects that leave the image as it is -/

section
variable {c : Params} {b : BusId} {x : BusState}

theorem img_wireEffect {f : BusState → BusState} (hf : (f x).img = x.img) : (wireEffect c f x).img = x.img := by
  unfold wireEffect
  split
  · rfl
  · exact hf

theorem img_onStart (a : BitVec 7) (dirBit : BitVec 1) (sel : FeSel) : (onStart a dirBit sel x).img = x.img := by
  unfold onStart; split <;> rfl

theorem img_onWrite (v : Byte) : (onWrite c v x).img = x.img := by
  unfold onWrite
  split
  · split <;> rfl
  · rfl

theorem img_takeReadByte (b : BusId) (x : BusState) : (takeReadByte b x).2.img = x.img := by
  rcases takeReadByte_cases b x with ⟨v, rest, -, htake⟩ | ⟨-, htake⟩ <;> rw [htake]

theorem img_raiseTxLow (c : Params) (before : Nat) (x : BusState) : (raiseTxLow c before x).img = x.img := by
  unfold raiseTxLow; split <;> rfl

theorem img_raiseNack (nack : Bool) (x : BusState) : (raiseNack nack x).img = x.img := by
  unfold raiseNack; split <;> rfl

theorem img_onRead (nack : Bool) : (onRead c b nack x).img = x.img := by
  unfold onRead
  split
  · exact (img_raiseNack _ _).trans ((img_raiseTxLow _ _ _).trans (img_takeReadByte b x))
  · rfl

theorem img_onStop : (onStop x).img = x.img := by
  unfold onStop; split <;> rfl

theorem img_arbEffect : (arbEffect x).img = x.img := by
  unfold arbEffect; split <;> rfl

theorem img_timeoutEffect : (timeoutEffect x).img = x.img := by
  unfold timeoutEffect; split <;> rfl

theorem img_startEffect (a : BitVec 7) : (startEffect a x).img = x.img := by
  unfold startEffect; split <;> rfl

theorem img_tickDown : (tickDown x).img = x.img := by
  unfold tickDown; split <;> rfl

/-! ### The four rules that write it -/

/-- The image `m` that an instruction leaves on bus `b` of record `x` where it writes one (R155). -/
inductive ImageWrite (c : Params) (b : BusId) (x : BusState) : Instr → Memory → Prop
  | reset : ImageWrite c b x .reset []
  | cfg {bus : BitVec 4} {cls : Byte} (hbus : BusId.ofField bus = some b) :
    ImageWrite c b x (.cfg bus cls) (writeImage (configuredImage (c.bus b) cls) x.img)
  | activate {bus : BitVec 4} {mask : Byte} (hbus : BusId.ofField bus = some b) :
    ImageWrite c b x (.activate bus mask) (setFlagBits (c.bus b).flagIdx.index mask x.img)
  | release (hphase : x.phase = .hold) (htimer : x.timer = 0) :
    ImageWrite c b x (.step b) (clearFlagBits (c.bus b).flagIdx.index x.seqMask x.img)

/-- Of the phase steps only the release of a press writes the image (R175). -/
theorem img_phaseStep (hphase : x.phase ≠ .hold) : (phaseStep c b x).img = x.img := by
  unfold phaseStep
  cases hph : x.phase with
  | hold => exact absurd hph hphase
  | cleared => dsimp only; unfold stepFromCleared; split <;> rfl
  | idle | set | assert | rassert | rhold => rfl

/-- STEP writes the image only in HOLD, once its timer has run out (R175, R179). -/
theorem img_stepEffect : (stepEffect c b x).img = x.img ∨ ImageWrite c b x (.step b) (stepEffect c b x).img := by
  unfold stepEffect
  split
  next hen =>
    by_cases hphase : x.phase = .hold
    · have htimer : x.timer = 0 := by simpa [BusState.stepEnabled, hphase] using hen
      have hrelease : phaseStep c b x = stepFromHold c b x := by simp only [phaseStep, hphase]
      rw [hrelease]
      exact .inr (.release hphase htimer)
    · exact .inl (img_phaseStep hphase)
  next => exact .inl rfl

/-- The image of a bus after an instruction: as before, or written by one of the four rules (R155). -/
theorem img_busEffect (c : Params) (b : BusId) (i : Instr) (x : BusState) :
    (busEffect c b i x).img = x.img ∨ ImageWrite c b x i (busEffect c b i x).img := by
  by_cases haddr : addresses i b = true
  case neg => exact .inl (by rw [busEffect_of_not_addresses haddr])
  rw [busEffect_of_addresses haddr]
  cases i with
  | evAddrR | evAddrW | evTxLow | evRxByte | evStop | evErrArb | evErrNack | evErrTimeout | evErrOvf | isr =>
    exact .inl (ownEffect_keeps_of_handlerBus (by simpa [handlerBus, addresses] using haddr) c x).img
  | wStartR b' a => exact .inl (img_wireEffect (img_onStart a _ _))
  | wStartW b' a => exact .inl (img_wireEffect (img_onStart a _ _))
  | wWrite b' v => exact .inl (img_wireEffect (img_onWrite v))
  | wRead b' nack => exact .inl (img_wireEffect (img_onRead nack))
  | wStop b' => exact .inl (img_wireEffect img_onStop)
  | activate bus mask =>
    show (activateEffect c b mask x).img = x.img ∨ ImageWrite c b x _ (activateEffect c b mask x).img
    unfold activateEffect
    split
    · exact .inr (.activate (by simpa [addresses] using haddr))
    · exact .inl rfl
  | cfg bus cls =>
    show (cfgEffect c b cls x).img = x.img ∨ ImageWrite c b x _ (cfgEffect c b cls x).img
    unfold cfgEffect
    split
    · exact .inr (.cfg (by simpa [addresses] using haddr))
    · exact .inl rfl
  | start bus a => exact .inl (img_startEffect a)
  | reset => exact .inr .reset
  | tick b' => exact .inl img_tickDown
  | step b' =>
    obtain rfl : b' = b := by simpa [addresses] using haddr
    exact img_stepEffect
  | xArb b' => exact .inl img_arbEffect
  | xTimeout b' => exact .inl img_timeoutEffect

end

/-- Settles O53: the image is written by one of four rules, and two of them write the flag byte alone. -/
theorem onlyFourRulesWriteTheImage : Obligations.OnlyFourRulesWriteTheImage := by
  intro i s t b a hwf hrun hchanged
  rw [(exec_acts hrun).bus] at hchanged
  rcases img_busEffect s.params b i (s.bus b) with hkept | hwrite
  · exact absurd (by rw [hkept]) hchanged
  generalize (busEffect s.params b i (s.bus b)).img = m at hwrite hchanged
  cases hwrite with
  | reset => exact .inl rfl
  | @cfg bus cls hbus =>
    refine .inr (.inl ⟨bus, cls, rfl, hbus, ?_⟩)
    by_contra hout
    exact hchanged (by rw [read_writeImage hwf, dif_neg hout])
  | @activate bus mask hbus =>
    refine .inr (.inr (.inl ⟨bus, mask, rfl, hbus, ?_⟩))
    by_contra hother
    exact hchanged (by rw [read_setFlagBits hwf, if_neg hother])
  | release hphase htimer =>
    refine .inr (.inr (.inr ⟨rfl, hphase, htimer, ?_⟩))
    by_contra hother
    exact hchanged (by rw [read_clearFlagBits hwf, if_neg hother])

end Sys2Proof.Machine
end

section
/-! SUPPORT. What the master observes in a run (R94, R200): DRAIN runs the rules of all pending events, and a W symbol followed by
DRAIN is one slot of a run. -/

namespace Sys2Proof.Machine

/-! ### Rules of several events -/

theorem KeepsOutsideDispatcher.trans {x y z : BusState} (hxy : KeepsOutsideDispatcher x y) (hyz : KeepsOutsideDispatcher y z) :
    KeepsOutsideDispatcher x z where
  img := hyz.img.trans hxy.img
  phase := hyz.phase.trans hxy.phase
  seqMask := hyz.seqMask.trans hxy.seqMask
  timer := hyz.timer.trans hxy.timer
  attn := hyz.attn.trans hxy.attn
  configured := hyz.configured.trans hxy.configured
  ownAddr := hyz.ownAddr.trans hxy.ownAddr
  engineEn := hyz.engineEn.trans hxy.engineEn
  feSel := hyz.feSel.trans hxy.feSel
  feActive := hyz.feActive.trans hxy.feActive
  underrun := hyz.underrun.trans hxy.underrun
  draws := hyz.draws.trans hxy.draws
  masterObs := hyz.masterObs.trans hxy.masterObs

/-- The record of a bus after the rules of the events `es`, oldest first. -/
def handleAll (c : Params) (b : BusId) (es : List Event) (x : BusState) : BusState :=
  es.foldl (fun y e => eventEffect c b e y) x

section
variable {c : Params} {b : BusId} {x : BusState}

@[simp] theorem handleAll_nil : handleAll c b [] x = x := rfl

@[simp] theorem handleAll_cons (e : Event) (es : List Event) :
    handleAll c b (e :: es) x = handleAll c b es (eventEffect c b e x) := rfl

/-- No event rule reads the queue (R110). -/
theorem eventEffect_with_evq (c : Params) (b : BusId) (e : Event) (x : BusState) (q : List (BitVec 16)) :
    eventEffect c b e { x with evq := q } = { eventEffect c b e x with evq := q } := by
  cases e with
  | txLow n =>
    show onTxLow c b { x with evq := q } = { onTxLow c b x with evq := q }
    unfold onTxLow
    dsimp only
    split <;> rfl
  | rxByte v =>
    show onRxByte c v { x with evq := q } = { onRxByte c v x with evq := q }
    unfold onRxByte
    dsimp only
    split
    · simp only [BusState.storeRx_eq, BusState.drainRx_eq, BusState.toTransferring_eq]
    · rfl
  | addrR | addrW | stop | errArb | errNack | errTimeout | errOvf => rfl

end

/-- The rules of pending events keep what each of them keeps (R124). -/
theorem handleAll_keeps (c : Params) (b : BusId) (es : List Event) (x : BusState) :
    KeepsOutsideDispatcher x (handleAll c b es x) ∧ (handleAll c b es x).evq = x.evq := by
  induction es generalizing x with
  | nil => exact ⟨.refl x, rfl⟩
  | cons e es ih =>
    obtain ⟨hkeeps, hevq⟩ := ih (eventEffect c b e x)
    exact ⟨(eventEffect_keeps c b e x).trans hkeeps, hevq.trans (evq_eventEffect c b e x)⟩

/-! ### DRAIN -/

/-- DRAIN of a queue of defined words runs the rules of all of them and leaves the queue empty (R94, R110). -/
theorem drainEvents_eq {b : BusId} {s : State} {es : List Event}
    (hdec : List.Forall₂ (fun w e => decodeEvent w = .ok e) (s.bus b).evq es) :
    drainEvents b s = .next (s.setBus b (handleAll s.params b es { s.bus b with evq := [] })) := by
  unfold drainEvents
  generalize hq : (s.bus b).evq = q at hdec
  induction hdec generalizing s with
  | nil =>
    have hsame : { s.bus b with evq := [] } = s.bus b := by rw [← hq]
    rw [hsame, handleAll_nil, State.setBus_bus]
    rfl
  | @cons w e rest es hw _ ih =>
    have hrun : exec (.isr b) s = .next (s.setBus b { eventEffect s.params b e (s.bus b) with evq := rest }) := by
      rw [exec_isr_of_event hq hw, onBus_takeEvent hq, exec_instr, State.onBus, State.params_setBus, State.bus_setBus_same,
        State.setBus_setBus, eventEffect_with_evq _ _ _ _ rest]
    have hrest := ih (s := s.setBus b { eventEffect s.params b e (s.bus b) with evq := rest }) (by rw [State.bus_setBus_same])
    rw [State.bus_setBus_same, State.params_setBus, State.setBus_setBus] at hrest
    simp only [List.length_cons, List.replicate_succ, execAll, hrun]
    rw [hrest, handleAll_cons, eventEffect_with_evq _ _ _ _ []]

/-! ### Slots of a run -/

/-- A run of two parts: the second starts where the first ends, and the observations stand one after the other. -/
theorem runObserving_append {b : BusId} {xs ys : List Item} {s t u : State} {os os' : List (Option WireObs)}
    (hxs : runObserving b xs s = some (os, t)) (hys : runObserving b ys t = some (os', u)) :
    runObserving b (xs ++ ys) s = some (os ++ os', u) := by
  induction xs generalizing s os with
  | nil =>
    cases hxs
    exact hys
  | cons it xs ih =>
    simp only [runObserving, List.cons_append] at hxs ⊢
    cases hrun : it.run s with
    | fault r => simp [hrun] at hxs
    | refused r => simp [hrun] at hxs
    | next v =>
      cases hrest : runObserving b xs v with
      | none => simp [hrun, hrest] at hxs
      | some p =>
        obtain ⟨os₁, t₁⟩ := p
        simp only [hrun, hrest, Option.some.injEq, Prod.mk.injEq] at hxs
        obtain ⟨rfl, rfl⟩ := hxs
        simp only [ih hrest]
        split <;> rfl

/-- A slot: a W symbol that leaves the record `y` with the words `q` pending, then DRAIN of their events. -/
theorem runObserving_slot {b : BusId} {i : Instr} {s : State} {q : List (BitVec 16)} {es : List Event} (y : BusState)
    (hwire : (Item.one i).isWireOf b = true) (hrun : exec i s = .next (s.setBus b { y with evq := q }))
    (hdec : List.Forall₂ (fun w e => decodeEvent w = .ok e) q es) (hnone : y.evq = []) :
    runObserving b [.one i, .drain b] s = some ([y.masterObs], s.setBus b (handleAll s.params b es y)) := by
  have hy : { y with evq := [] } = y := by rw [← hnone]
  have hdrain : drainEvents b (s.setBus b { y with evq := q }) = .next (s.setBus b (handleAll s.params b es y)) := by
    rw [drainEvents_eq (es := es) (by rwa [State.bus_setBus_same]), State.bus_setBus_same, State.params_setBus,
      State.setBus_setBus, hy]
  have hnowire : (Item.drain b).isWireOf b = false := rfl
  simp only [runObserving, Item.run, hrun, hdrain, hwire, hnowire, State.bus_setBus_same, if_true, Bool.false_eq_true, if_false]

end Sys2Proof.Machine
end

section
/-! SUPPORT. The peripheral serves its image (R112, R114, R153, R206 to R208, R215): in every read slot of a poll the transmit FIFO
holds the snapshot's bytes from the next index on, wrapping at 5, and more of them than the threshold. -/

namespace Sys2Proof.Machine

/-! ### Snapshots -/

/-- The snapshot reads the image alone (R151). -/
theorem snapshot_congr {c : Params} {b : BusId} {x y : BusState} (himg : y.img = x.img) : snapshot c b y = snapshot c b x := by
  unfold snapshot
  rw [himg]

/-- Serving one byte more begins one byte earlier. -/
theorem served_succ (im : Image) (k n : Nat) :
    served im k (n + 1) = im[k % 5]'(Nat.mod_lt _ (by decide)) :: served im (k + 1) n := by
  rw [Nat.add_comm n 1, served_add, served_mod]
  rfl

/-- The bytes served from byte 0 on, as the snapshot's bytes at the indices mod 5 (R152). -/
theorem map_served_zero {α : Type} (im : Image) (n : Nat) (f : Byte → α) :
    (served im 0 n).map (fun v => some (f v)) = (List.range n).map fun k => (im.toList[k % 5]?).map f := by
  rw [served, List.map_map]
  refine List.map_congr_left fun k _ => ?_
  have hmod : k % 5 < 5 := Nat.mod_lt _ (by decide)
  simp [hmod]

/-! ### What the W symbols of a poll leave, apart from the words they raise -/

/-- After an acknowledged START that selects for `sel` (R201, R203). -/
def BusState.afterStart (sel : FeSel) (x : BusState) : BusState :=
  { x with feSel := sel, feActive := true, masterObs := some .ack }

/-- After a read slot that sends `v` and leaves `rest` in the transmit FIFO (R206, R208). -/
def BusState.afterRead (v : Byte) (rest : List Byte) (nack : Bool) (x : BusState) : BusState :=
  { x with txf := rest, feSel := if nack then .none else .read, masterObs := some (.byte v) }

/-- After a STOP (R210). -/
def BusState.afterStop (x : BusState) : BusState :=
  { x with feActive := false, feSel := .none, masterObs := some .nothing }

/-! ### W symbols of a poll on a bus with no event pending -/

section
variable {c : Params} {b : BusId} {x : BusState} {s : State}

/-- A W symbol on a bus with no event pending is taken (R211). -/
theorem onWire_of_no_event (hq : (s.bus b).evq = []) (f : BusState → BusState) :
    onWire s b f = s.setBus b (f (s.bus b)) := onWire_taken f (BusState.stretchHold_false (.inl hq))

/-- START of a matching address with no event pending (R201, R203). -/
theorem onStart_of_answers {a : BitVec 7} (hans : x.answers a = true) (hq : x.evq = []) (dirBit : BitVec 1) (sel : FeSel) :
    onStart a dirBit sel x = { x.afterStart sel with evq := [evAddress (addressByte a dirBit)] } := by
  rw [onStart, if_pos hans, BusState.raise_eq, BusState.observe_eq, hq]
  rfl

/-- STOP of an open transaction with no event pending (R210). -/
theorem onStop_of_active (hact : x.feActive = true) (hq : x.evq = []) :
    onStop x = { x.afterStop with evq := [evStopWord] } := by
  rw [onStop, if_pos hact, BusState.raise_eq, BusState.observe_eq, hq]
  rfl

/-! ### What a read slot raises -/

/-- The words a read slot raises when its pop leaves `left` bytes: TX_LOW at the threshold (R207), then ERR_NACK (R208). -/
def readWords (c : Params) (left : Nat) (nack : Bool) : List (BitVec 16) :=
  (if left = c.raw.txLowThresh then [evTxLowWord (c.raw.txDepth - left)] else []) ++ if nack then [evErrNackWord] else []

/-- The refill event of a read slot whose pop leaves `left` bytes (R207). -/
def refillEvents (c : Params) (left : Nat) : List Event :=
  if left = c.raw.txLowThresh then [.txLow (BitVec.ofNat 8 (c.raw.txDepth - left))] else []

/-- The event of the master's answer to a read byte (R208). -/
def nackEvents (nack : Bool) : List Event := if nack then [.errNack] else []

@[simp] theorem nackEvents_false : nackEvents false = [] := rfl

/-- The free space of TX_LOW is the data its word decodes to (R82, R207). -/
theorem decodeEvent_evTxLowWord {room : Nat} (hpos : 0 < room) (hfits : room ≤ 255) :
    decodeEvent (evTxLowWord room) = .ok (.txLow (BitVec.ofNat 8 room)) := by
  apply decodeEvent_txLow
  intro hzero
  have := congrArg BitVec.toNat hzero
  simp at this
  omega

/-- The threshold is below the depth (R7), so the free space at the threshold is never 0. -/
theorem decode_readWords (c : Params) (left : Nat) (nack : Bool) :
    List.Forall₂ (fun w e => decodeEvent w = .ok e) (readWords c left nack) (refillEvents c left ++ nackEvents nack) := by
  obtain ⟨-, hdepth, hthresh, -⟩ := c.sizes
  refine List.rel_append ?refill ?nack
  case refill =>
    unfold refillEvents
    split
    · exact .cons (decodeEvent_evTxLowWord (by omega) (by omega)) .nil
    · exact .nil
  case nack =>
    cases nack with
    | false => exact .nil
    | true => exact .cons (by decide) .nil

theorem raiseTxLow_eq (c : Params) (before : Nat) (x : BusState) :
    raiseTxLow c before x = { x with
      evq := x.evq ++ if before = c.raw.txLowThresh + 1 then [evTxLowWord (c.raw.txDepth - x.txf.length)] else [] } := by
  unfold raiseTxLow
  split
  · rfl
  · rw [List.append_nil]

theorem raiseNack_eq (nack : Bool) (x : BusState) :
    raiseNack nack x = { x with
      evq := x.evq ++ if nack then [evErrNackWord] else []
      feSel := if nack then .none else x.feSel } := by
  cases nack with
  | false => simp [raiseNack]
  | true => rfl

/-- READ while selected, with a byte to send and no event pending (R206 to R208). -/
theorem onRead_of_filled {v : Byte} {rest : List Byte} (hsel : x.feSel = .read) (hq : x.evq = []) (htxf : x.txf = v :: rest)
    (nack : Bool) :
    onRead c b nack x = { x.afterRead v rest nack with evq := readWords c rest.length nack } := by
  have htake : takeReadByte b x = (v, { x with txf := rest }) := by simp only [takeReadByte, htxf]
  rw [onRead, if_pos hsel, htake]
  simp only [raiseTxLow_eq, raiseNack_eq, BusState.observe_eq, BusState.afterRead, htxf, hq, hsel, readWords,
    List.length_cons, Nat.add_right_cancel_iff, List.nil_append]

end

/-! ### Serving -/

/-- The dispatcher serves the snapshot `im` in a read transaction: the bytes in the transmit FIFO are those from index `k` on,
wrapping at 5, and the read pointer stands behind them (R112, R114, R152). -/
structure Serving (c : Params) (b : BusId) (im : Image) (k : Nat) (x : BusState) : Prop where
  snap : snapshot c b x = im
  dir : x.dir = .read
  engaged : x.engState ≠ .idle
  txf : x.txf = served im k x.txf.length
  rp : x.rp.val = (k + x.txf.length) % 5

/-- An open transaction with no event pending, on a bus whose image and sticky mark are still those of `x₀`. -/
structure OpenSince (x₀ x : BusState) : Prop where
  img : x.img = x₀.img
  underrun : x.underrun = x₀.underrun
  evq : x.evq = []
  feActive : x.feActive = true

/-- The record before read slot `k` of a poll that began on record `x₀`: the peripheral is selected, and the FIFO holds more than
the threshold. -/
structure SlotReady (c : Params) (b : BusId) (x₀ : BusState) (k : Nat) (x : BusState) : Prop where
  openSince : OpenSince x₀ x
  serving : Serving c b (snapshot c b x₀) k x
  selected : x.feSel = .read
  filled : c.raw.txLowThresh < x.txf.length

section
variable {c : Params} {b : BusId} {im : Image} {k : Nat} {x x₀ : BusState}

/-- Pushing the next bytes of the snapshot goes on serving from the same index (R114). -/
theorem Serving.push (h : Serving c b im k x) (n : Nat) : Serving c b im k (x.push im n) where
  snap := (snapshot_congr rfl).trans h.snap
  dir := h.dir
  engaged := h.engaged
  txf := by
    have hlen : (x.push im n).txf.length = x.txf.length + n := by simp
    rw [hlen, served_add, ← h.rp, ← h.txf]
    rfl
  rp := by
    rw [BusState.rp_push, BusState.txf_push, List.length_append, length_served, h.rp]
    omega

/-- TX_LOW fills the FIFO up to its depth (R114). -/
theorem Serving.onTxLow (h : Serving c b im k x) :
    Serving c b im k (onTxLow c b x) ∧ c.raw.txDepth ≤ (onTxLow c b x).txf.length := by
  rw [onTxLow_inside ⟨h.dir, h.engaged⟩, h.snap]
  refine ⟨{ h.push (c.raw.txDepth - x.txf.length) with engaged := nofun }, ?_⟩
  simp only [BusState.txf_push, List.length_append, length_served]
  omega

/-- ADDR_R flushes the FIFO and begins to serve from byte 0 (R112). -/
theorem serving_onAddressRead (c : Params) (b : BusId) (x : BusState) :
    Serving c b (snapshot c b x) 0 (onAddressRead c b x) := by
  have hflushed : Serving c b (snapshot c b x) 0 { x with txf := [], rp := 0, dir := .read, engState := .addressed } :=
    { snap := snapshot_congr rfl, dir := rfl, engaged := nofun, txf := rfl, rp := rfl }
  exact hflushed.push (min 5 c.raw.txDepth)

/-- The oldest byte in the FIFO is the snapshot's at index `k` mod 5, and the others are those from the next index on. -/
theorem Serving.txf_eq_cons (h : Serving c b im k x) (hne : 0 < x.txf.length) :
    x.txf = im[k % 5]'(Nat.mod_lt _ (by decide)) :: served im (k + 1) (x.txf.length - 1) := by
  rw [← served_succ, Nat.sub_add_cancel hne]
  exact h.txf

/-- Once its oldest byte is sent, the FIFO goes on from the next index (R206). -/
theorem Serving.pop (h : Serving c b im k x) {n : Nat} (hlen : x.txf.length = n + 1) (v : Byte) (nack : Bool) :
    Serving c b im (k + 1) (x.afterRead v (served im (k + 1) n) nack) where
  snap := (snapshot_congr rfl).trans h.snap
  dir := h.dir
  engaged := h.engaged
  txf := by rw [BusState.afterRead, length_served]
  rp := by
    rw [BusState.afterRead, h.rp, hlen, length_served]
    congr 1
    omega

/-- After the refill of a read slot the FIFO is above the threshold again: either the pop did not reach it, or TX_LOW has filled
the FIFO up to its depth (R207, R215). -/
theorem Serving.refill (h : Serving c b im k x) {n : Nat} (hlen : x.txf.length = n) (hleft : c.raw.txLowThresh ≤ n) :
    Serving c b im k (handleAll c b (refillEvents c n) x) ∧
      c.raw.txLowThresh < (handleAll c b (refillEvents c n) x).txf.length := by
  obtain ⟨-, -, hthresh, -⟩ := c.sizes
  unfold refillEvents
  split
  next hcross =>
    obtain ⟨hserving, hfull⟩ := h.onTxLow
    exact ⟨hserving, by simp only [handleAll_cons, handleAll_nil, eventEffect]; omega⟩
  next hcross => exact ⟨h, by simp only [handleAll_nil]; omega⟩

theorem OpenSince.afterRead (h : OpenSince x₀ x) (v : Byte) (rest : List Byte) (nack : Bool) :
    OpenSince x₀ (x.afterRead v rest nack) := { h with }

/-- The rules of pending events leave the transaction open. -/
theorem OpenSince.handleAll (h : OpenSince x₀ x) (es : List Event) : OpenSince x₀ (handleAll c b es x) := by
  obtain ⟨hkeeps, hevq⟩ := handleAll_keeps c b es x
  exact ⟨hkeeps.img.trans h.img, hkeeps.underrun.trans h.underrun, hevq.trans h.evq, hkeeps.feActive.trans h.feActive⟩

end

/-! ### The slots of a poll -/

section
variable {s : State} {b : BusId} {x₀ : BusState} {k : Nat}

/-- The START of a poll, then DRAIN: acknowledged, and the FIFO is filled from byte 0 on (R112, R201). -/
theorem runObserving_pollStart (hen : (s.bus b).engineEn = true) (hq : (s.bus b).evq = []) :
    ∃ y, runObserving b [.one (.wStartR b (s.bus b).ownAddr), .drain b] s = some ([some .ack], s.setBus b y) ∧
      SlotReady s.params b (s.bus b) 0 y := by
  have hans : (s.bus b).answers (s.bus b).ownAddr = true := by simp [BusState.answers, hen]
  have hrun : exec (.wStartR b (s.bus b).ownAddr) s = .next (s.setBus b (onStart (s.bus b).ownAddr 1#1 .read (s.bus b))) :=
    congrArg Host.Outcome.next (onWire_of_no_event hq _)
  rw [onStart_of_answers hans hq] at hrun
  refine ⟨onAddressRead s.params b ((s.bus b).afterStart .read),
    runObserving_slot _ (by simp [Item.isWireOf]) hrun (.cons (decodeEvent_addressR _) .nil) hq, ?_⟩
  exact {
    openSince := ⟨rfl, rfl, hq, rfl⟩
    serving := serving_onAddressRead s.params b ((s.bus b).afterStart .read)
    selected := rfl
    filled := by
      obtain ⟨-, -, hthresh, -⟩ := s.params.sizes
      simpa [onAddressRead, BusState.toAddressed_eq] using hthresh }

/-- A read slot of a poll, then DRAIN: the master reads the snapshot's byte at `k` mod 5, and while it acknowledges the bus is
ready for the next slot (R206 to R208, R215). -/
theorem runObserving_readSlot (h : SlotReady s.params b x₀ k (s.bus b)) (nack : Bool) :
    ∃ y, runObserving b [.one (.wRead b nack), .drain b] s =
        some ((served (snapshot s.params b x₀) k 1).map fun v => some (.byte v), s.setBus b y) ∧
      OpenSince x₀ y ∧ (nack = false → SlotReady s.params b x₀ (k + 1) y) := by
  obtain ⟨n, hlen⟩ : ∃ n, (s.bus b).txf.length = n + 1 := Nat.exists_eq_add_one.mpr (Nat.zero_lt_of_lt h.filled)
  have htxf := h.serving.txf_eq_cons (by omega)
  rw [hlen, Nat.add_sub_cancel] at htxf
  have hrun : exec (.wRead b nack) s = .next (s.setBus b (onRead s.params b nack (s.bus b))) :=
    congrArg Host.Outcome.next (onWire_of_no_event h.openSince.evq _)
  rw [onRead_of_filled h.selected h.openSince.evq htxf, length_served] at hrun
  refine ⟨_, runObserving_slot _ (by simp [Item.isWireOf]) hrun (decode_readWords s.params n nack) h.openSince.evq,
    (h.openSince.afterRead ..).handleAll _, ?ready⟩
  case ready =>
    rintro rfl
    have hthresh : s.params.raw.txLowThresh ≤ n := by
      have := h.filled
      omega
    obtain ⟨hserving, hfilled⟩ := (h.serving.pop hlen _ false).refill (length_served ..) hthresh
    rw [nackEvents_false, List.append_nil]
    exact ⟨(h.openSince.afterRead ..).handleAll _, hserving, (handleAll_keeps ..).1.feSel, hfilled⟩

/-- All read slots of a poll: the master reads the snapshot's bytes in order, wrapping at 5, and the transaction is still open
(R153, R215). -/
theorem runObserving_readSlots {n : Nat} (h : SlotReady s.params b x₀ k (s.bus b)) :
    ∃ y, runObserving b (readSlots b (n + 1)) s =
        some ((served (snapshot s.params b x₀) k (n + 1)).map fun v => some (.byte v), s.setBus b y) ∧ OpenSince x₀ y := by
  induction n generalizing s k with
  | zero =>
    obtain ⟨y, hrun, hopen, -⟩ := runObserving_readSlot h true
    exact ⟨y, hrun, hopen⟩
  | succ n ih =>
    obtain ⟨y, hfirst, -, hready⟩ := runObserving_readSlot h false
    obtain ⟨z, hrest, hopen⟩ := ih (s := s.setBus b y) (k := k + 1)
      (by rw [State.bus_setBus_same, State.params_setBus]; exact hready rfl)
    rw [State.params_setBus, State.setBus_setBus] at hrest
    refine ⟨z, ?_, hopen⟩
    rw [served_succ]
    exact runObserving_append hfirst hrest

/-- The STOP of a poll, then DRAIN: the transaction is closed and the engine is back in (IDLE, NONE) (R116, R210). -/
theorem runObserving_pollStop (h : OpenSince x₀ (s.bus b)) :
    ∃ y, runObserving b [.one (.wStop b), .drain b] s = some ([some .nothing], s.setBus b y) ∧
      y.engState = .idle ∧ y.dir = .none ∧ y.evq = [] ∧ y.feActive = false ∧ y.underrun = x₀.underrun ∧ y.img = x₀.img := by
  have hrun : exec (.wStop b) s = .next (s.setBus b (onStop (s.bus b))) :=
    congrArg Host.Outcome.next (onWire_of_no_event h.evq _)
  rw [onStop_of_active h.feActive h.evq] at hrun
  have hstop : decodeEvent evStopWord = .ok .stop := by decide
  exact ⟨(s.bus b).afterStop.toIdle, runObserving_slot _ (by simp [Item.isWireOf]) hrun (.cons hstop .nil) h.evq,
    rfl, rfl, h.evq, rfl, h.underrun, h.img⟩

end

/-- Settles O59: START fills the FIFO from byte 0, each read slot keeps it ahead of the master, and STOP closes the
transaction. -/
theorem pollReturnsTheWrappedImage : Obligations.PollReturnsTheWrappedImage := by
  intro s b n hn hen hq
  obtain ⟨m, rfl⟩ := Nat.exists_eq_add_one.mpr hn
  obtain ⟨x, hstart, hready⟩ := runObserving_pollStart hen hq
  obtain ⟨y, hreads, hopen⟩ := runObserving_readSlots (s := s.setBus b x) (n := m)
    (by rw [State.bus_setBus_same, State.params_setBus]; exact hready)
  rw [State.params_setBus, State.setBus_setBus] at hreads
  obtain ⟨z, hstop, hidle, hdir, hevq, hact, hunderrun, himg⟩ := runObserving_pollStop (s := s.setBus b y)
    (by rw [State.bus_setBus_same]; exact hopen)
  rw [State.setBus_setBus] at hstop
  refine ⟨s.setBus b z, ?run, ?_⟩
  case run =>
    rw [← map_served_zero]
    exact runObserving_append (runObserving_append hstart hreads) hstop
  rw [State.bus_setBus_same, State.bus_setBus_other _ _ (BusId.other_ne b)]
  exact ⟨hidle, hdir, hevq, hact, hunderrun, fun a => by rw [himg], rfl⟩

end Sys2Proof.Machine
end

section
/-! SUPPORT. STEP and TICK (R173 to R180): when a STEP is enabled, the record each phase step leaves, and the statements about
them. -/

namespace Sys2Proof.Machine

section
variable {s : State} {b : BusId} {c : Params} {x : BusState}

/-! ### When STEP is enabled -/

theorem Phase.timed_iff {p : Phase} : p.timed = true ↔ p ∈ [Phase.assert, .hold, .rassert, .rhold] := by
  cases p <;> decide

/-- In a timed phase STEP waits for the timer to run out (R179). -/
theorem stepEnabled_of_timed (hphase : x.phase.timed = true) : x.stepEnabled = true ↔ x.timer = 0 := by
  unfold BusState.stepEnabled
  cases hph : x.phase with
  | assert | hold | rassert | rhold => simp
  | idle | set | cleared => simp [hph, Phase.timed] at hphase

/-- SET and CLEARED have no timer to wait for (R179). -/
theorem stepEnabled_of_set (hphase : x.phase = .set) : x.stepEnabled = true := by
  simp only [BusState.stepEnabled, hphase]

theorem stepEnabled_of_cleared (hphase : x.phase = .cleared) : x.stepEnabled = true := by
  simp only [BusState.stepEnabled, hphase]

/-! ### The phase step of each phase -/

theorem phaseStep_of_set (hphase : x.phase = .set) :
    phaseStep c b x = { x with attn := (c.bus b).attnEn, timer := c.raw.tAssert, phase := .assert } := by
  simp only [phaseStep, hphase, stepFromSet]

theorem phaseStep_of_assert (hphase : x.phase = .assert) :
    phaseStep c b x = { x with attn := false, timer := c.raw.tHold, phase := .hold } := by
  simp only [phaseStep, hphase, stepFromAssert]

theorem phaseStep_of_hold (hphase : x.phase = .hold) :
    phaseStep c b x =
      { x with img := clearFlagBits (c.bus b).flagIdx.index x.seqMask x.img, phase := .cleared } := by
  simp only [phaseStep, hphase, stepFromHold]

theorem phaseStep_of_cleared (hphase : x.phase = .cleared) :
    phaseStep c b x =
      if (c.bus b).attnRelEn then { x with attn := true, timer := c.raw.tRassert, phase := .rassert }
      else { x with phase := .idle } := by
  simp only [phaseStep, hphase, stepFromCleared]

theorem phaseStep_of_rassert (hphase : x.phase = .rassert) :
    phaseStep c b x = { x with attn := false, timer := c.raw.tRhold, phase := .rhold } := by
  simp only [phaseStep, hphase, stepFromRassert]

theorem phaseStep_of_rhold (hphase : x.phase = .rhold) : phaseStep c b x = { x with phase := .idle } := by
  simp only [phaseStep, hphase, stepFromRhold]

/-! ### The two instructions -/

/-- An enabled STEP runs the phase step of its bus and does nothing else (R179). -/
theorem exec_step_of_enabled (hen : (s.bus b).stepEnabled = true) :
    exec (.step b) s = .next (s.setBus b (phaseStep s.params b (s.bus b))) :=
  congrArg Host.Outcome.next (if_pos hen)

/-- A STEP of a timed phase whose timer has run out. -/
theorem exec_step_of_timer_zero (hphase : (s.bus b).phase.timed = true) (htimer : (s.bus b).timer = 0) :
    exec (.step b) s = .next (s.setBus b (phaseStep s.params b (s.bus b))) :=
  exec_step_of_enabled ((stepEnabled_of_timed hphase).mpr htimer)

/-- A tick writes the timer alone, and stops at 0 (R180). -/
theorem tickDown_eq (x : BusState) : tickDown x = { x with timer := if x.phase.timed then x.timer - 1 else x.timer } := by
  unfold tickDown
  cases htimed : x.phase.timed with
  | false => simp
  | true =>
    by_cases hpos : 0 < x.timer
    · simp [hpos]
    · have hzero : x.timer - 1 = x.timer := by omega
      simp [hpos, hzero]

end

/-! ### The statements about STEP and TICK -/

/-- Settles O44: STEP is always enabled in SET. -/
theorem stepFromSetAssertsTheLine : Obligations.StepFromSetAssertsTheLine := by
  intro s b hphase
  rw [exec_step_of_enabled (stepEnabled_of_set hphase), phaseStep_of_set hphase]

/-- Settles O45: in ASSERT the timer has run out, so STEP is enabled. -/
theorem stepFromAssertBeginsTheReleaseWait : Obligations.StepFromAssertBeginsTheReleaseWait := by
  intro s b hphase htimer
  rw [exec_step_of_timer_zero (by rw [hphase]; rfl) htimer, phaseStep_of_assert hphase]

/-- Settles O46: the release writes the image by `clearFlagBits`, which writes the flag byte alone. -/
theorem stepFromHoldClearsTheMaskBits : Obligations.StepFromHoldClearsTheMaskBits := by
  intro s b hphase htimer hwf
  refine ⟨_, exec_step_of_timer_zero (by rw [hphase]; rfl) htimer, ?_⟩
  rw [State.bus_setBus_same, phaseStep_of_hold hphase]
  refine ⟨fun a => ?_, rfl⟩
  rw [read_clearFlagBits hwf]
  split
  next hflag => rw [hflag]
  next => rfl

/-- Settles O47: STEP is always enabled in CLEARED. -/
theorem stepFromClearedPulsesOrEnds : Obligations.StepFromClearedPulsesOrEnds := by
  intro s b hphase
  rw [exec_step_of_enabled (stepEnabled_of_cleared hphase), phaseStep_of_cleared hphase]

/-- Settles O48: in RASSERT the timer has run out, so STEP is enabled. -/
theorem stepFromRassertBeginsTheFinalWait : Obligations.StepFromRassertBeginsTheFinalWait := by
  intro s b hphase htimer
  rw [exec_step_of_timer_zero (by rw [hphase]; rfl) htimer, phaseStep_of_rassert hphase]

/-- Settles O49: in RHOLD the timer has run out, so STEP is enabled. -/
theorem stepFromRholdEndsThePress : Obligations.StepFromRholdEndsThePress := by
  intro s b hphase htimer
  rw [exec_step_of_timer_zero (by rw [hphase]; rfl) htimer, phaseStep_of_rhold hphase]

/-- Settles O50: the four phases listed are the timed ones. -/
theorem tickCountsTheTimerDown : Obligations.TickCountsTheTimerDown := by
  intro s b
  show Host.Outcome.next (s.setBus b (tickDown (s.bus b))) = _
  simp only [tickDown_eq, Phase.timed_iff]

end Sys2Proof.Machine
end

section
/-! SUPPORT. What ACTIVATE answers: the press it begins, or the error of the first check that fails (R171, R172). -/

namespace Sys2Proof.Machine

/-! ### The checks, in their order -/

section
variable {s : State} {bus : BitVec 4} {b : BusId} {mask : Byte}

theorem acceptActivate_of_no_bus (hbus : BusId.ofField bus = none) :
    acceptActivate s bus mask = .error .busUnavailable := by
  simp only [acceptActivate, hbus]

theorem acceptActivate_of_not_ready (hbus : BusId.ofField bus = some b)
    (hready : (s.bus b).engineEn = false ∨ (s.bus b).configured = false) :
    acceptActivate s bus mask = .error .busUnavailable := by
  have hcheck : (!(s.bus b).engineEn || !(s.bus b).configured) = true := by simpa using hready
  simp only [acceptActivate, hbus, hcheck, if_true]

theorem acceptActivate_of_busy (hbus : BusId.ofField bus = some b) (hen : (s.bus b).engineEn = true)
    (hcfg : (s.bus b).configured = true) (hphase : (s.bus b).phase ≠ .idle) :
    acceptActivate s bus mask = .error .busy := by
  simp [acceptActivate, hbus, hen, hcfg, BusState.busy, hphase]

theorem acceptActivate_of_invalid (hbus : BusId.ofField bus = some b) (hen : (s.bus b).engineEn = true)
    (hcfg : (s.bus b).configured = true) (hphase : (s.bus b).phase = .idle)
    (hmask : maskValid (s.params.bus b).defined mask = false) : acceptActivate s bus mask = .error .invalidMask := by
  simp [acceptActivate, hbus, hen, hcfg, BusState.busy, hphase, hmask]

/-! ### The answer -/

theorem exec_activate_of_error {r : CmdResult} (hacc : acceptActivate s bus mask = .error r) :
    exec (.activate bus mask) s = .next (s.reply r) := by
  show execActivate bus mask s = _
  simp only [execActivate, hacc]

theorem exec_activate_of_ok (hacc : acceptActivate s bus mask = .ok b) :
    exec (.activate bus mask) s = .next ((s.onBus b (beginPress s.params b mask)).reply .ok) := by
  show execActivate bus mask s = _
  simp only [execActivate, hacc]

end

/-- Settles O36: the press is begun with `setFlagBits`, which writes the flag byte alone. -/
theorem activateSetsTheMaskBits : Obligations.ActivateSetsTheMaskBits := by
  intro s bus b mask hbus hen hcfg hphase hne hdef hwf
  have hacc : acceptActivate s bus mask = .ok b :=
    acceptActivate_ok.mpr ⟨hbus, hen, hcfg, hphase, maskValid_iff.mpr ⟨hne, hdef⟩⟩
  refine ⟨_, exec_activate_of_ok hacc, ?_⟩
  rw [State.bus_reply, State.bus_onBus_same]
  refine ⟨fun a => (read_setFlagBits hwf _ _ a).trans ?_, rfl⟩
  split
  next hflag => rw [hflag]
  next => rfl

/-- Settles O37: one clause for each check, whose error is the answer when the checks before it pass. -/
theorem activateReturnsTheFirstError : Obligations.ActivateReturnsTheFirstError := by
  intro s bus mask
  refine ⟨?noBus, fun b hbus => ⟨?notReady, ?busy, ?invalid⟩⟩
  case noBus => exact fun hbus => exec_activate_of_error (acceptActivate_of_no_bus (BusId.ofField_eq_none hbus))
  case notReady => exact fun hready => exec_activate_of_error (acceptActivate_of_not_ready hbus hready)
  case busy => exact fun hen hcfg hphase => exec_activate_of_error (acceptActivate_of_busy hbus hen hcfg hphase)
  case invalid =>
    intro hen hcfg hphase hmask
    refine exec_activate_of_error (acceptActivate_of_invalid hbus hen hcfg hphase ?_)
    rw [← Bool.not_eq_true, maskValid_iff]
    tauto

end Sys2Proof.Machine
end

section
/-! SUPPORT. The course of a press (R170, R181, R183): what an instruction can do to the phase, the timer and the image of a bus,
and how many ticks a run needs before a condition that a hold protects can end. -/

namespace Sys2Proof.Machine

/-! ### Effects that leave the press as it is -/

/-- The image, the phase and the timer of `y` are those of `x`. -/
structure KeepsPress (x y : BusState) : Prop where
  img : y.img = x.img
  phase : y.phase = x.phase
  timer : y.timer = x.timer

section
variable {c : Params} {b : BusId} {x : BusState}

theorem KeepsPress.refl (x : BusState) : KeepsPress x x := ⟨rfl, rfl, rfl⟩

theorem wireEffect_keepsPress {f : BusState → BusState} (h : KeepsPress x (f x)) : KeepsPress x (wireEffect c f x) := by
  unfold wireEffect
  split
  · exact .refl x
  · exact h

theorem onStart_keepsPress (a : BitVec 7) (dirBit : BitVec 1) (sel : FeSel) : KeepsPress x (onStart a dirBit sel x) := by
  unfold onStart; split <;> exact ⟨rfl, rfl, rfl⟩

theorem onWrite_keepsPress (v : Byte) : KeepsPress x (onWrite c v x) := by
  unfold onWrite
  split
  · split <;> exact ⟨rfl, rfl, rfl⟩
  · exact ⟨rfl, rfl, rfl⟩

/-- What a read slot raises after its byte leaves the press as it is. -/
theorem raiseNack_raiseTxLow_keepsPress (before : Nat) (nack : Bool) (y : BusState) :
    KeepsPress y (raiseNack nack (raiseTxLow c before y)) := by
  unfold raiseNack raiseTxLow
  split <;> split <;> exact ⟨rfl, rfl, rfl⟩

theorem onRead_keepsPress (nack : Bool) : KeepsPress x (onRead c b nack x) := by
  unfold onRead
  split
  · rcases takeReadByte_cases b x with ⟨v, rest, -, htake⟩ | ⟨-, htake⟩ <;> rw [htake]
    · exact { raiseNack_raiseTxLow_keepsPress (c := c) x.txf.length nack { x with txf := rest } with }
    · exact { raiseNack_raiseTxLow_keepsPress (c := c) x.txf.length nack
        { x with draws := x.draws + 1, underrun := true } with }
  · exact ⟨rfl, rfl, rfl⟩

theorem onStop_keepsPress : KeepsPress x (onStop x) := by
  unfold onStop; split <;> exact ⟨rfl, rfl, rfl⟩

theorem startEffect_keepsPress (a : BitVec 7) : KeepsPress x (startEffect a x) := by
  unfold startEffect; split <;> exact ⟨rfl, rfl, rfl⟩

theorem arbEffect_keepsPress : KeepsPress x (arbEffect x) := by
  unfold arbEffect; split <;> exact ⟨rfl, rfl, rfl⟩

theorem timeoutEffect_keepsPress : KeepsPress x (timeoutEffect x) := by
  unfold timeoutEffect; split <;> exact ⟨rfl, rfl, rfl⟩

/-! ### Everything an instruction can do to a press -/

/-- The instructions that can touch the press of bus `b`, with the record each leaves of the record `x` (R170, R181). -/
inductive PressMove (c : Params) (b : BusId) (x : BusState) : Instr → BusState → Prop
  | reset : PressMove c b x .reset (resetBus x)
  | cfg {bus : BitVec 4} {cls : Byte} (hidle : x.phase = .idle) : PressMove c b x (.cfg bus cls) (configureBus c b cls x)
  | activate {bus : BitVec 4} {mask : Byte} (hbus : BusId.ofField bus = some b) (hidle : x.phase = .idle) :
    PressMove c b x (.activate bus mask) (beginPress c b mask x)
  | tick : PressMove c b x (.tick b) (tickDown x)
  | step (hen : x.stepEnabled = true) : PressMove c b x (.step b) (phaseStep c b x)

/-- The press of a bus after an instruction: as before, or after one of the moves. -/
theorem press_busEffect (c : Params) (b : BusId) (i : Instr) (x : BusState) :
    KeepsPress x (busEffect c b i x) ∨ PressMove c b x i (busEffect c b i x) := by
  by_cases haddr : addresses i b = true
  case neg => exact .inl (by rw [busEffect_of_not_addresses haddr]; exact .refl x)
  rw [busEffect_of_addresses haddr]
  cases i with
  | evAddrR | evAddrW | evTxLow | evRxByte | evStop | evErrArb | evErrNack | evErrTimeout | evErrOvf | isr =>
    exact .inl { ownEffect_keeps_of_handlerBus (by simpa [handlerBus, addresses] using haddr) c x with }
  | wStartR b' a => exact .inl (wireEffect_keepsPress (onStart_keepsPress a _ _))
  | wStartW b' a => exact .inl (wireEffect_keepsPress (onStart_keepsPress a _ _))
  | wWrite b' v => exact .inl (wireEffect_keepsPress (onWrite_keepsPress v))
  | wRead b' nack => exact .inl (wireEffect_keepsPress (onRead_keepsPress nack))
  | wStop b' => exact .inl (wireEffect_keepsPress onStop_keepsPress)
  | activate bus mask =>
    show KeepsPress x (activateEffect c b mask x) ∨ PressMove c b x _ (activateEffect c b mask x)
    unfold activateEffect
    split
    next hchecks =>
      obtain ⟨-, -, hidle, -⟩ := hchecks
      exact .inr (.activate (by simpa [addresses] using haddr) hidle)
    next => exact .inl (.refl x)
  | cfg bus cls =>
    show KeepsPress x (cfgEffect c b cls x) ∨ PressMove c b x _ (cfgEffect c b cls x)
    unfold cfgEffect
    split
    next hchecks => exact .inr (.cfg hchecks.1)
    next => exact .inl (.refl x)
  | start bus a => exact .inl (startEffect_keepsPress a)
  | reset => exact .inr .reset
  | tick b' =>
    obtain rfl : b' = b := by simpa [addresses] using haddr
    exact .inr .tick
  | step b' =>
    obtain rfl : b' = b := by simpa [addresses] using haddr
    show KeepsPress x (stepEffect c b' x) ∨ PressMove c b' x _ (stepEffect c b' x)
    unfold stepEffect
    split
    next hen => exact .inr (.step hen)
    next => exact .inl (.refl x)
  | xArb b' => exact .inl arbEffect_keepsPress
  | xTimeout b' => exact .inl timeoutEffect_keepsPress

/-! ### The phase -/

theorem phase_tickDown : (tickDown x).phase = x.phase := by rw [tickDown_eq]

/-- The seven transitions of an enabled STEP (R170). -/
theorem phase_phaseStep (hen : x.stepEnabled = true) :
    (x.phase, (phaseStep c b x).phase) ∈
      [(Phase.set, Phase.assert), (.assert, .hold), (.hold, .cleared), (.cleared, .idle), (.cleared, .rassert),
       (.rassert, .rhold), (.rhold, .idle)] := by
  cases hph : x.phase with
  | idle =>
    rw [stepEnabled_of_idle hph] at hen
    contradiction
  | set => simp [phaseStep_of_set hph]
  | assert => simp [phaseStep_of_assert hph]
  | hold => simp [phaseStep_of_hold hph]
  | cleared =>
    rw [phaseStep_of_cleared hph]
    split <;> simp
  | rassert => simp [phaseStep_of_rassert hph]
  | rhold => simp [phaseStep_of_rhold hph]

end

/-- Settles O51: of the moves only RESET, ACTIVATE and STEP write the phase. -/
theorem phaseChangesOnlyAlongThePress : Obligations.PhaseChangesOnlyAlongThePress := by
  intro i s t b hrun hchanged
  rw [(exec_acts hrun).bus] at hchanged ⊢
  rcases press_busEffect s.params b i (s.bus b) with hkept | hmove
  · exact absurd hkept.phase hchanged
  generalize busEffect s.params b i (s.bus b) = y at hmove hchanged ⊢
  cases hmove with
  | reset => exact .inl ⟨rfl, rfl⟩
  | cfg => exact absurd rfl hchanged
  | @activate bus mask hbus hidle => exact .inr (.inl ⟨bus, mask, rfl, hbus, hidle, rfl⟩)
  | tick => exact absurd phase_tickDown hchanged
  | step hen => exact .inr (.inr ⟨rfl, phase_phaseStep hen⟩)

/-! ### Counting ticks -/

@[simp] theorem ticksIn_tick (b : BusId) : ticksIn b [.tick b] = 1 := by simp [ticksIn]

theorem ticksIn_cons (b : BusId) (i : Instr) (is : List Instr) : ticksIn b (i :: is) = ticksIn b [i] + ticksIn b is :=
  List.countP_append (l₁ := [i])

/-- While `P` holds of a bus, only ticks of that bus bring `left` down, one each, and `P` ends only with nothing left: whatever
runs but RESET (R183). -/
def HoldsFor (c : Params) (b : BusId) (P : BusState → Prop) (left : BusState → Nat) : Prop :=
  ∀ i x, i ≠ .reset → P x →
    left x = 0 ∨ (P (busEffect c b i x) ∧ left x ≤ left (busEffect c b i x) + ticksIn b [i])

/-- A run at whose end `P` no longer holds had a tick for everything that was left at its start. -/
theorem HoldsFor.le_ticksIn {b : BusId} {P : BusState → Prop} {left : BusState → Nat} {is : List Instr} {s u : State}
    (hhold : HoldsFor s.params b P left) (hreset : Instr.reset ∉ is) (hrun : execAll is s = .next u)
    (hstart : P (s.bus b)) (hend : ¬P (u.bus b)) : left (s.bus b) ≤ ticksIn b is := by
  induction is generalizing s with
  | nil =>
    obtain rfl : s = u := by simpa using hrun
    exact absurd hstart hend
  | cons i is ih =>
    obtain ⟨hne, hreset⟩ : Instr.reset ≠ i ∧ Instr.reset ∉ is := by simpa using hreset
    obtain ⟨t, hfirst, hrest⟩ := execAll_cons_next.mp hrun
    have hacts := exec_acts hfirst
    rcases hhold i (s.bus b) (Ne.symm hne) hstart with hzero | ⟨hnext, hleft⟩
    · exact hzero.trans_le (Nat.zero_le _)
    · rw [← hacts.bus] at hnext hleft
      have hticks := ih (by rwa [hacts.params]) hreset hrest hnext
      rw [ticksIn_cons]
      omega

section
variable {c : Params} {b : BusId} {x : BusState}

/-- A press in flight is moved by TICK and by an enabled STEP alone, but for RESET (R170). -/
theorem press_busEffect_of_busy {i : Instr} (hi : i ≠ .reset) (hbusy : x.phase ≠ .idle) :
    KeepsPress x (busEffect c b i x) ∨ (i = .tick b ∧ busEffect c b i x = tickDown x) ∨
    (x.stepEnabled = true ∧ busEffect c b i x = phaseStep c b x) := by
  rcases press_busEffect c b i x with hkept | hmove
  · exact .inl hkept
  generalize busEffect c b i x = y at hmove ⊢
  cases hmove with
  | reset => exact absurd rfl hi
  | cfg hidle => exact absurd hidle hbusy
  | activate _ hidle => exact absurd hidle hbusy
  | tick => exact .inr (.inl ⟨rfl, rfl⟩)
  | step hen => exact .inr (.inr ⟨hen, rfl⟩)

theorem timer_le_tickDown : x.timer ≤ (tickDown x).timer + 1 := by
  rw [tickDown_eq]
  dsimp only
  split <;> omega

/-- A timed phase lasts for its timer (R179, R183). -/
theorem holdsFor_timer (c : Params) (b : BusId) {p : Phase} (hp : p.timed = true) :
    HoldsFor c b (fun x => x.phase = p) BusState.timer := by
  intro i x hi hphase
  subst hphase
  have hbusy : x.phase ≠ .idle := by
    intro hidle
    simp [hidle, Phase.timed] at hp
  rcases press_busEffect_of_busy (c := c) (b := b) hi hbusy with hkept | ⟨rfl, heq⟩ | ⟨hen, -⟩
  · exact .inr ⟨hkept.phase, by rw [hkept.timer]; exact Nat.le_add_right _ _⟩
  · rw [heq, ticksIn_tick]
    exact .inr ⟨phase_tickDown, timer_le_tickDown⟩
  · exact .inl ((stepEnabled_of_timed hp).mp hen)

/-- A press that has set its bits and not yet cleared them, with the image `m` (R170, R184). -/
def BitsStand (m : Memory) (x : BusState) : Prop := x.phase.flagsSet = true ∧ x.img = m

theorem ticksToRelease_congr {y : BusState} (h : KeepsPress x y) : y.ticksToRelease c = x.ticksToRelease c := by
  simp only [BusState.ticksToRelease, h.phase, h.timer]

theorem ticksToRelease_le_tickDown : x.ticksToRelease c ≤ (tickDown x).ticksToRelease c + 1 := by
  have htimer : x.timer ≤ (tickDown x).timer + 1 := timer_le_tickDown
  simp only [BusState.ticksToRelease, phase_tickDown]
  cases x.phase with
  | assert | hold => dsimp only; omega
  | idle | set | cleared | rassert | rhold => exact Nat.le_succ _

/-- An enabled STEP of a press whose bits stand: either the release is due, or the bits still stand and no hold is lost (R173 to
R175). -/
theorem bitsStand_phaseStep {m : Memory} (h : BitsStand m x) (hen : x.stepEnabled = true) :
    x.ticksToRelease c = 0 ∨
    (BitsStand m (phaseStep c b x) ∧ x.ticksToRelease c ≤ (phaseStep c b x).ticksToRelease c) := by
  obtain ⟨hflags, himg⟩ := h
  cases hph : x.phase with
  | set =>
    rw [phaseStep_of_set hph]
    exact .inr ⟨⟨rfl, himg⟩, by simp [BusState.ticksToRelease, hph]⟩
  | assert =>
    have htimer : x.timer = 0 := (stepEnabled_of_timed (by rw [hph]; rfl)).mp hen
    rw [phaseStep_of_assert hph]
    exact .inr ⟨⟨rfl, himg⟩, by simp [BusState.ticksToRelease, hph, htimer]⟩
  | hold =>
    have htimer : x.timer = 0 := (stepEnabled_of_timed (by rw [hph]; rfl)).mp hen
    exact .inl (by simp [BusState.ticksToRelease, hph, htimer])
  | idle | cleared | rassert | rhold => simp [hph, Phase.flagsSet] at hflags

/-- The bits of a press stand for the ticks that its two holds still need (R183). -/
theorem holdsFor_bits (c : Params) (b : BusId) (m : Memory) :
    HoldsFor c b (BitsStand m) (BusState.ticksToRelease c) := by
  intro i x hi hstand
  obtain ⟨hflags, himg⟩ := hstand
  have hbusy : x.phase ≠ .idle := by
    intro hidle
    simp [hidle, Phase.flagsSet] at hflags
  rcases press_busEffect_of_busy (c := c) (b := b) hi hbusy with hkept | ⟨rfl, heq⟩ | ⟨hen, heq⟩
  · refine .inr ⟨⟨by rw [hkept.phase, hflags], hkept.img.trans himg⟩, ?_⟩
    rw [ticksToRelease_congr hkept]
    exact Nat.le_add_right _ _
  · rw [heq, ticksIn_tick]
    exact .inr ⟨⟨by rw [phase_tickDown, hflags], img_tickDown.trans himg⟩, ticksToRelease_le_tickDown⟩
  · rw [heq]
    rcases bitsStand_phaseStep (c := c) (b := b) ⟨hflags, himg⟩ hen with hdue | ⟨hnext, hleft⟩
    · exact .inl hdue
    · exact .inr ⟨hnext, hleft.trans (Nat.le_add_right _ _)⟩

end

/-- Settles O52: the two timed phases last for their timers, the bits stand for both holds together, and R9 bounds the poll
interval by these. -/
theorem pressHoldsForItsTicks : Obligations.PressHoldsForItsTicks := by
  intro is s u b hreset hrun
  refine ⟨?assert, ?hold, ?bits⟩
  case assert =>
    intro hphase htimer hleft
    exact htimer ▸ (holdsFor_timer s.params b (p := .assert) rfl).le_ticksIn hreset hrun hphase hleft
  case hold =>
    intro hphase htimer hleft
    exact htimer ▸ (holdsFor_timer s.params b (p := .hold) rfl).le_ticksIn hreset hrun hphase hleft
  case bits =>
    intro index mask hphase _ hset hgone
    have hstart : BitsStand (s.bus b).img (s.bus b) := ⟨by rw [hphase]; rfl, rfl⟩
    have hend : ¬BitsStand (s.bus b).img (u.bus b) := fun hstand => hgone (by rw [hstand.2, hset])
    have hticks : s.params.raw.tAssert + s.params.raw.tHold ≤ ticksIn b is := by
      have h := (holdsFor_bits s.params b (s.bus b).img).le_ticksIn hreset hrun hstart hend
      simpa only [BusState.ticksToRelease, hphase] using h
    obtain ⟨-, hpoll⟩ := s.params.timing
    exact ⟨hticks, hpoll.trans_le (Nat.mul_le_mul_right _ hticks)⟩

end Sys2Proof.Machine
end

section
/-! SUPPORT. The front end (file 43, R200 to R213): the record each W symbol and each injected error leaves, whatever events are
already pending, and the statements about them. -/

namespace Sys2Proof.Machine

/-! ### The record each W symbol leaves -/

section
variable {c : Params} {b : BusId} {x : BusState}

/-- START of a matching address (R201, R203). -/
theorem onStart_of_match (hen : x.engineEn = true) {a : BitVec 7} (haddr : x.ownAddr = a) (dirBit : BitVec 1) (sel : FeSel) :
    onStart a dirBit sel x = { x with
      feSel := sel
      feActive := true
      evq := x.evq ++ [0x1000#16 ||| (a ++ dirBit).setWidth 16]
      masterObs := some .ack } := by
  have hans : x.answers a = true := by simp [BusState.answers, hen, haddr]
  rw [onStart, if_pos hans, evAddress_eq, addressByte]
  rfl

/-- START that nobody answers (R202). -/
theorem onStart_of_no_match {a : BitVec 7} (h : x.engineEn = false ∨ x.ownAddr ≠ a) (dirBit : BitVec 1) (sel : FeSel) :
    onStart a dirBit sel x = { x with feSel := .none, masterObs := some .nack } := by
  have hans : ¬x.answers a = true := by
    rcases h with hoff | hother
    · simp [BusState.answers, hoff]
    · simp [BusState.answers, hother]
  rw [onStart, if_neg hans]
  rfl

/-- WRITE while selected, with room in the receive FIFO (R204). -/
theorem onWrite_of_room (hsel : x.feSel = .write) (hroom : x.rxf.length < c.raw.rxDepth) (v : Byte) :
    onWrite c v x = { x with
      rxf := x.rxf ++ [v]
      evq := x.evq ++ [evRxByteWord v]
      masterObs := some .ack } := by
  rw [onWrite, if_pos hsel, if_pos hroom]
  rfl

/-- WRITE while selected, with the receive FIFO full (R205). -/
theorem onWrite_of_full (hsel : x.feSel = .write) (hfull : c.raw.rxDepth ≤ x.rxf.length) (v : Byte) :
    onWrite c v x = { x with evq := x.evq ++ [evErrOvfWord], masterObs := some .ack } := by
  rw [onWrite, if_pos hsel, if_neg hfull.not_gt]
  rfl

/-- WRITE while not selected for writing (R204). -/
theorem onWrite_of_not_selected (hsel : x.feSel ≠ .write) (v : Byte) :
    onWrite c v x = { x with masterObs := some .nack } := by
  rw [onWrite, if_neg hsel]
  rfl

/-- READ while selected, with a byte to send: the pop leaves `rest`, and what it raises is `readWords` (R206 to R208). -/
theorem onRead_of_cons {v : Byte} {rest : List Byte} (hsel : x.feSel = .read) (htxf : x.txf = v :: rest) (nack : Bool) :
    onRead c b nack x = { x.afterRead v rest nack with evq := x.evq ++ readWords c rest.length nack } := by
  have htake : takeReadByte b x = (v, { x with txf := rest }) := by simp only [takeReadByte, htxf]
  rw [onRead, if_pos hsel, htake]
  simp only [raiseTxLow_eq, raiseNack_eq, BusState.observe_eq, BusState.afterRead, htxf, hsel, readWords, List.length_cons,
    Nat.add_right_cancel_iff, List.append_assoc]

/-- READ while selected, with nothing to send: no pop crosses the threshold, so TX_LOW is not raised (R206 to R208). -/
theorem onRead_of_empty (hsel : x.feSel = .read) (htxf : x.txf = []) (nack : Bool) :
    onRead c b nack x = { x with
      evq := x.evq ++ if nack then [evErrNackWord] else []
      feSel := if nack then .none else .read
      underrun := true
      draws := x.draws + 1
      masterObs := some (.byte (nextDraw b x)) } := by
  have htake : takeReadByte b x = (nextDraw b x, { x.drawn with underrun := true }) := by simp only [takeReadByte, htxf]
  have hcross : ([] : List Byte).length ≠ c.raw.txLowThresh + 1 := nofun
  rw [onRead, if_pos hsel, htake]
  simp only [raiseTxLow, htxf, if_neg hcross, raiseNack_eq, BusState.observe_eq, BusState.drawn_eq, hsel]

/-- READ while not selected for reading (R209). -/
theorem onRead_of_not_selected (hsel : x.feSel ≠ .read) (nack : Bool) :
    onRead c b nack x = { x with draws := x.draws + 1, masterObs := some (.byte (nextDraw b x)) } := by
  rw [onRead, if_neg hsel]
  rfl

/-- STOP (R210). -/
theorem onStop_eq (x : BusState) :
    onStop x = { x.afterStop with evq := x.evq ++ if x.feActive then [evStopWord] else [] } := by
  cases hact : x.feActive with
  | true =>
    rw [onStop, if_pos hact]
    rfl
  | false => simp [onStop, hact, BusState.observe_eq, BusState.afterStop]

end

/-! ### What the wire answers -/

section
variable {s : State} {b : BusId}

/-- The answer of a W symbol that no event holds, from the record its rule leaves (R211). -/
theorem next_onWire_of_effect {f : BusState → BusState} {y : BusState}
    (hfree : (s.bus b).evq = [] ∨ s.params.raw.stretch = false) (heff : f (s.bus b) = y) :
    Host.Outcome.next (onWire s b f) = (.next (s.setBus b y) : StepOutcome) := by
  rw [onWire_taken f (BusState.stretchHold_false hfree), State.onBus, heff]

/-- The answer of a W symbol that clock stretching holds (R211). -/
theorem next_onWire_of_stretch (f : BusState → BusState) (hstretch : s.params.raw.stretch = true) (hq : (s.bus b).evq ≠ []) :
    Host.Outcome.next (onWire s b f) = (.next s : StepOutcome) := by
  rw [onWire_held f (by simp [BusState.stretchHold, hstretch, hq])]

end

/-! ### The statements about the front end -/

/-- Settles O23: the match of R201. -/
theorem startReadMatchSelects : Obligations.StartReadMatchSelects := by
  intro s b a hfree hen haddr
  exact next_onWire_of_effect hfree (onStart_of_match hen haddr 1#1 .read)

/-- Settles O24: the match of R203. -/
theorem startWriteMatchSelects : Obligations.StartWriteMatchSelects := by
  intro s b a hfree hen haddr
  exact next_onWire_of_effect hfree (onStart_of_match hen haddr 0#1 .write)

/-- Settles O25: without a match the two directions answer alike. -/
theorem startWithoutMatchIsNacked : Obligations.StartWithoutMatchIsNacked := by
  intro s b a i hi hfree hmiss
  simp only [List.mem_cons, List.not_mem_nil, or_false] at hi
  obtain rfl | rfl := hi
  · exact next_onWire_of_effect hfree (onStart_of_no_match hmiss 1#1 .read)
  · exact next_onWire_of_effect hfree (onStart_of_no_match hmiss 0#1 .write)

/-- Settles O26: the branch of R204 that queues the byte. -/
theorem writeQueuesTheByte : Obligations.WriteQueuesTheByte := by
  intro s b v hfree hsel hroom
  rw [← evRxByteWord_eq]
  exact next_onWire_of_effect hfree (onWrite_of_room hsel hroom v)

/-- Settles O27: the branch of R205, which loses the byte. -/
theorem writeToAFullFifoOverflows : Obligations.WriteToAFullFifoOverflows := by
  intro s b v hfree hsel hfull
  exact next_onWire_of_effect hfree (onWrite_of_full hsel hfull v)

/-- Settles O28: the else branch of R204. -/
theorem writeWhileNotSelectedIsNacked : Obligations.WriteWhileNotSelectedIsNacked := by
  intro s b v hfree hsel
  exact next_onWire_of_effect hfree (onWrite_of_not_selected hsel v)

/-- Settles O29: the words are those of `readWords`; the free space in TX_LOW is at most `TX_DEPTH`, so it fits in a byte (R7). -/
theorem readSendsTheHeadOfTheFifo : Obligations.ReadSendsTheHeadOfTheFifo := by
  intro s b nack v rest hfree hsel htxf
  obtain ⟨-, hdepth, -⟩ := s.params.sizes
  rw [← evTxLowWord_eq (show s.params.raw.txDepth - rest.length ≤ 255 by omega), List.append_assoc]
  exact next_onWire_of_effect hfree (onRead_of_cons hsel htxf nack)

/-- Settles O30: an empty FIFO is an underrun (R206). -/
theorem readOfAnEmptyFifoIsAnUnderrun : Obligations.ReadOfAnEmptyFifoIsAnUnderrun := by
  intro s b nack hfree hsel htxf
  exact next_onWire_of_effect hfree (onRead_of_empty hsel htxf nack)

/-- Settles O31: the else branch of R209. -/
theorem readWhileNotSelectedDraws : Obligations.ReadWhileNotSelectedDraws := by
  intro s b nack hfree hsel
  exact next_onWire_of_effect hfree (onRead_of_not_selected hsel nack)

/-- Settles O32: the record of `onStop_eq`, with an open transaction and without. -/
theorem wireStopEndsTheTransaction : Obligations.WireStopEndsTheTransaction := by
  intro s b hfree
  exact next_onWire_of_effect hfree (onStop_eq (s.bus b))

/-- Settles O33: each of the five W symbols passes through `onWire`, which the pending event holds. -/
theorem stretchingHoldsTheWire : Obligations.StretchingHoldsTheWire := by
  intro s b a v nack i hstretch hq hi
  simp only [List.mem_cons, List.not_mem_nil, or_false] at hi
  obtain rfl | rfl | rfl | rfl | rfl := hi
  all_goals exact next_onWire_of_stretch _ hstretch hq

/-- Settles O34: X.ARB is enabled while selected for reading (R212). -/
theorem arbitrationLossEndsTheSelection : Obligations.ArbitrationLossEndsTheSelection := by
  intro s b hsel
  have hen : (s.bus b).arbEnabled = true := decide_eq_true hsel
  exact congrArg Host.Outcome.next (if_pos hen)

/-- Settles O35: X.TIMEOUT is enabled while a transaction is open (R213). -/
theorem timeoutAbandonsTheTransaction : Obligations.TimeoutAbandonsTheTransaction := by
  intro s b hact
  have hen : (s.bus b).timeoutEnabled = true := hact
  exact congrArg Host.Outcome.next (if_pos hen)

end Sys2Proof.Machine
end

section
/-! SUPPORT. The peripheral collects a write (R113, R115, R204, R210, R216): the received bytes are stored one after the other from
the write index on, each slot of a SEND stores one of them and empties the receive FIFO again, and STOP closes the transaction. -/

namespace Sys2Proof.Machine

/-! ### Storing several bytes -/

/-- The record of a bus after storing the received bytes `vs`, oldest first (R115). -/
def BusState.storeAll (c : Params) (vs : List Byte) (x : BusState) : BusState :=
  vs.foldl (fun y v => y.storeRx c v) x

section
variable {c : Params} {x : BusState}

@[simp] theorem BusState.storeAll_nil : x.storeAll c [] = x := rfl

@[simp] theorem BusState.storeAll_cons (v : Byte) (vs : List Byte) :
    x.storeAll c (v :: vs) = (x.storeRx c v).storeAll c vs := rfl

theorem BusState.widx_storeRx (hfits : x.widx ≤ c.raw.wbufLen) (v : Byte) :
    (x.storeRx c v).widx = min (x.widx + 1) c.raw.wbufLen := by
  rw [BusState.storeRx_eq]
  dsimp only
  split <;> omega

theorem BusState.wf_wbuf_storeRx (hwf : x.wbuf.wf = true) (v : Byte) : (x.storeRx c v).wbuf.wf = true := by
  rw [BusState.storeRx_eq]
  dsimp only
  split
  · exact Memory.write_wf hwf _ _
  · exact hwf

/-- The byte at the write index is stored while there is room, and no other byte changes (R115). -/
theorem BusState.read_wbuf_storeRx (hwf : x.wbuf.wf = true) (v : Byte) (a : Nat) :
    (x.storeRx c v).wbuf.read a = if a = x.widx ∧ a < c.raw.wbufLen then v else x.wbuf.read a := by
  rw [BusState.storeRx_eq]
  dsimp only
  by_cases hroom : x.widx < c.raw.wbufLen
  · rw [if_pos hroom, Memory.read_write hwf]
    exact if_congr ⟨fun ha => ⟨ha, ha ▸ hroom⟩, And.left⟩ rfl rfl
  · rw [if_neg hroom, if_neg fun ⟨ha, hlt⟩ => hroom (ha ▸ hlt)]

/-- Storing bytes writes the buffer and the index alone, and the index saturates at the buffer's size (R115). -/
theorem BusState.storeAll_eq (hfits : x.widx ≤ c.raw.wbufLen) (vs : List Byte) :
    x.storeAll c vs = { x with
      wbuf := (x.storeAll c vs).wbuf
      widx := min (x.widx + vs.length) c.raw.wbufLen } := by
  induction vs generalizing x with
  | nil => simp [hfits]
  | cons v vs ih =>
    have hwidx := BusState.widx_storeRx hfits v
    have hsum : min ((x.storeRx c v).widx + vs.length) c.raw.wbufLen = min (x.widx + (v :: vs).length) c.raw.wbufLen := by
      rw [hwidx, List.length_cons]
      omega
    have hrest := ih (x := x.storeRx c v) (by omega)
    rw [hsum] at hrest
    rw [BusState.storeAll_cons, hrest]
    simp only [BusState.storeRx_eq]

/-- Byte `k` of the stored bytes stands `k` places behind the first write index, as far as the buffer reaches; every other byte is
as before (R115). -/
theorem BusState.read_wbuf_storeAll (hwf : x.wbuf.wf = true) (hfits : x.widx ≤ c.raw.wbufLen) (vs : List Byte) (a : Nat) :
    (x.storeAll c vs).wbuf.read a =
      if x.widx ≤ a ∧ a < c.raw.wbufLen then (vs[a - x.widx]?).getD (x.wbuf.read a) else x.wbuf.read a := by
  induction vs generalizing x with
  | nil => simp
  | cons v vs ih =>
    have hwidx := BusState.widx_storeRx hfits v
    rw [BusState.storeAll_cons, ih (BusState.wf_wbuf_storeRx hwf v) (by omega), BusState.read_wbuf_storeRx hwf, hwidx]
    by_cases hlt : a < c.raw.wbufLen
    · rcases Nat.lt_trichotomy a x.widx with hbefore | rfl | hbehind
      · rw [if_neg (by omega), if_neg (by omega), if_neg (by omega)]
      · rw [if_neg (by omega), if_pos ⟨rfl, hlt⟩, if_pos ⟨le_rfl, hlt⟩]
        simp
      · have hsucc : a - x.widx = a - min (x.widx + 1) c.raw.wbufLen + 1 := by omega
        rw [if_pos (by omega), if_neg (by omega), if_pos (by omega), hsucc, List.getElem?_cons_succ]
    · simp only [hlt, and_false, if_false]

end

/-! ### Collecting -/

/-- The record `x` of a bus inside an acknowledged write transaction, with the engine in state `e` (R113, R115, R203, R204). -/
def BusState.collecting (e : EngState) (x : BusState) : BusState :=
  { x with feSel := .write, feActive := true, dir := .write, engState := e, masterObs := some .ack }

/-- No event is pending and no received byte waits. -/
structure Drained (x : BusState) : Prop where
  evq : x.evq = []
  rxf : x.rxf = []

theorem Drained.storeRx {c : Params} {x : BusState} (h : Drained x) (v : Byte) : Drained (x.storeRx c v) := by
  rw [BusState.storeRx_eq]
  exact ⟨h.evq, h.rxf⟩

section
variable {c : Params} {b : BusId} {x : BusState} {e : EngState}

/-- ADDR_W after the START of a write begins to collect at index 0 (R113). -/
theorem onAddressWrite_afterStart (x : BusState) :
    onAddressWrite (x.afterStart .write) = ({ x with widx := 0 } : BusState).collecting .addressed := rfl

/-- RX_BYTE while collecting stores the byte that WRITE has put into the receive FIFO (R115). -/
theorem onRxByte_collecting (h : Drained x) (he : e ≠ .idle) (v : Byte) :
    onRxByte c v (({ x with rxf := [v] } : BusState).collecting e) = (x.storeRx c v).collecting .transferring := by
  have hdrain : (({ x with rxf := [v] } : BusState).collecting e).drainRx = x.collecting e := by
    simp only [BusState.drainRx_eq, BusState.collecting, List.tail_cons, h.rxf]
  rw [onRxByte, if_pos ⟨rfl, he⟩, hdrain, BusState.storeRx_eq, BusState.storeRx_eq]
  rfl

end

/-! ### The slots of a SEND -/

section
variable {s : State} {b : BusId} {x : BusState} {e : EngState}

/-- The START of a SEND, then DRAIN: acknowledged, and the bus collects from index 0 on (R113, R203). -/
theorem runObserving_sendStart (hen : (s.bus b).engineEn = true) (hq : (s.bus b).evq = []) :
    runObserving b [.one (.wStartW b (s.bus b).ownAddr), .drain b] s =
      some ([some .ack], s.setBus b (({ s.bus b with widx := 0 } : BusState).collecting .addressed)) := by
  have hans : (s.bus b).answers (s.bus b).ownAddr = true := by simp [BusState.answers, hen]
  have hrun : exec (.wStartW b (s.bus b).ownAddr) s = .next (s.setBus b
      { (s.bus b).afterStart .write with evq := [evAddress (addressByte (s.bus b).ownAddr 0#1)] }) :=
    next_onWire_of_effect (.inl hq) (onStart_of_answers hans hq 0#1 .write)
  exact runObserving_slot _ (by simp [Item.isWireOf]) hrun (.cons (decodeEvent_addressW _) .nil) hq

/-- A write slot of a SEND, then DRAIN: acknowledged, and the byte is stored (R115, R204). -/
theorem runObserving_writeSlot (h : Drained x) (he : e ≠ .idle) (v : Byte) :
    runObserving b [.one (.wWrite b v), .drain b] (s.setBus b (x.collecting e)) =
      some ([some .ack], s.setBus b ((x.storeRx s.params v).collecting .transferring)) := by
  have hroom : (x.collecting e).rxf.length < s.params.raw.rxDepth := by
    obtain ⟨-, -, -, hdepth, -⟩ := s.params.sizes
    simp only [BusState.collecting, h.rxf, List.length_nil]
    omega
  have hleft : onWrite s.params v (x.collecting e) =
      { ({ x with rxf := [v] } : BusState).collecting e with evq := [evRxByteWord v] } := by
    rw [onWrite_of_room rfl hroom v]
    simp only [BusState.collecting, h.evq, h.rxf, List.nil_append]
  have hrun : exec (.wWrite b v) (s.setBus b (x.collecting e)) = .next ((s.setBus b (x.collecting e)).setBus b
      { ({ x with rxf := [v] } : BusState).collecting e with evq := [evRxByteWord v] }) :=
    next_onWire_of_effect (.inl (by rw [State.bus_setBus_same]; exact h.evq))
      (by rw [State.params_setBus, State.bus_setBus_same, hleft])
  have hslot := runObserving_slot _ (by simp [Item.isWireOf]) hrun (.cons (decodeEvent_rxByte v) .nil) h.evq
  rw [State.params_setBus, State.setBus_setBus, handleAll_cons, handleAll_nil] at hslot
  rw [hslot, ← onRxByte_collecting h he v]
  rfl

/-- All write slots of a SEND: each is acknowledged, all bytes are stored in order, and the transaction is still open (R216). -/
theorem runObserving_writeSlots (h : Drained x) (he : e ≠ .idle) (vs : List Byte) :
    ∃ e', runObserving b (writeSlots b vs) (s.setBus b (x.collecting e)) =
      some (List.replicate vs.length (some .ack), s.setBus b ((x.storeAll s.params vs).collecting e')) := by
  induction vs generalizing x e with
  | nil => exact ⟨e, rfl⟩
  | cons v vs ih =>
    obtain ⟨e', hrest⟩ := ih (h.storeRx v) (e := .transferring) nofun
    exact ⟨e', runObserving_append (runObserving_writeSlot h he v) hrest⟩

/-- The STOP of a SEND, then DRAIN: the transaction is closed and the engine is back in (IDLE, NONE) (R116, R210). -/
theorem runObserving_sendStop (hq : x.evq = []) :
    runObserving b [.one (.wStop b), .drain b] (s.setBus b (x.collecting e)) =
      some ([some .nothing], s.setBus b x.afterStop.toIdle) := by
  have hleft : onStop (x.collecting e) = { (x.collecting e).afterStop with evq := [evStopWord] } := onStop_of_active rfl hq
  have hrun : exec (.wStop b) (s.setBus b (x.collecting e)) =
      .next ((s.setBus b (x.collecting e)).setBus b { (x.collecting e).afterStop with evq := [evStopWord] }) :=
    next_onWire_of_effect (.inl (by rw [State.bus_setBus_same]; exact hq)) (by rw [State.bus_setBus_same, hleft])
  have hstop : decodeEvent evStopWord = .ok .stop := by decide
  have hslot := runObserving_slot _ (by simp [Item.isWireOf]) hrun (.cons hstop .nil) hq
  rw [State.setBus_setBus] at hslot
  exact hslot

end

/-- Settles O60: START resets the index, each write slot stores one byte, and STOP closes the transaction. -/
theorem sendIsAcknowledgedAndStored : Obligations.SendIsAcknowledgedAndStored := by
  intro s b vs hen hq hrxf hwf
  have hdrained : Drained { s.bus b with widx := 0 } := ⟨hq, hrxf⟩
  obtain ⟨e, hslots⟩ := runObserving_writeSlots (s := s) (b := b) hdrained (e := .addressed) nofun vs
  have hstored := BusState.storeAll_eq (c := s.params) (x := { s.bus b with widx := 0 }) (Nat.zero_le _) vs
  have hstop := runObserving_sendStop (s := s) (b := b) (e := e)
    (x := ({ s.bus b with widx := 0 } : BusState).storeAll s.params vs) (by rw [hstored]; exact hq)
  refine ⟨_, runObserving_append (runObserving_append (runObserving_sendStart hen hq) hslots) hstop, fun a => ?read, ?frame⟩
  case read =>
    rw [State.bus_setBus_same]
    exact (BusState.read_wbuf_storeAll (x := { s.bus b with widx := 0 }) hwf (Nat.zero_le _) vs a).trans
      (by simp only [Nat.zero_le, true_and, Nat.sub_zero])
  case frame =>
    rw [State.bus_setBus_same, hstored]
    simp [BusState.afterStop, BusState.toIdle_eq]

end Sys2Proof.Machine
end

section
/-! SUPPORT. START, RESET and power-on (R260 to R263): what START answers in each of its cases, the record RESET leaves on each
bus, and the statements about them. -/

namespace Sys2Proof.Machine

/-! ### What START answers -/

section
variable {s : State} {bus : BitVec 4} {b : BusId} {a : BitVec 7}

theorem exec_start_of_no_bus (hbus : BusId.ofField bus = none) : exec (.start bus a) s = .next (s.reply .busUnavailable) := by
  show execStart bus a s = _
  simp only [execStart, hbus]

theorem exec_start_of_started (hbus : BusId.ofField bus = some b) (hen : (s.bus b).engineEn = true) :
    exec (.start bus a) s = .next (s.reply .busy) := by
  show execStart bus a s = _
  simp only [execStart, hbus, hen, if_true]

theorem exec_start_of_not_started (hbus : BusId.ofField bus = some b) (hen : (s.bus b).engineEn = false) :
    exec (.start bus a) s = .next ((s.onBus b (startEngine a)).reply .ok) := by
  show execStart bus a s = _
  simp [execStart, hbus, hen]

end

/-- Settles O40: START on an engine that is not enabled is `startEngine` on the record of its bus. -/
theorem startEnablesTheEngine : Obligations.StartEnablesTheEngine :=
  fun _ _ _ _ hbus hen => exec_start_of_not_started hbus hen

/-- Settles O41: one clause for each check of START. -/
theorem startReturnsTheFirstError : Obligations.StartReturnsTheFirstError := by
  intro s bus a
  refine ⟨?noBus, ?started⟩
  case noBus => exact fun hbus => exec_start_of_no_bus (BusId.ofField_eq_none hbus)
  case started => exact fun b hbus hen => exec_start_of_started hbus hen

/-! ### RESET -/

theorem exec_reset (s : State) : exec .reset s = .next (((s.onBus .b0 resetBus).onBus .b1 resetBus).reply .ok) := rfl

theorem bus_of_exec_reset {s t : State} (h : exec .reset s = .next t) (b : BusId) : t.bus b = resetBus (s.bus b) :=
  ((exec_acts h).bus b).trans (busEffect_of_addresses rfl _)

/-- Settles O42: the global fields pass through both updates, and each bus is left with `resetBus` of its record. -/
theorem resetClearsBothBuses : Obligations.ResetClearsBothBuses := by
  intro s
  refine ⟨_, exec_reset s, by simp, by simp, by simp, by simp, fun b => ?bus⟩
  case bus =>
    rw [bus_of_exec_reset (exec_reset s) b]
    refine ⟨fun a _ => Memory.read_nil a, ?values⟩
    simp [resetBus, BusState.reset]

/-! ### Power-on -/

@[simp] theorem State.bus_reset (b : BusId) : State.reset.bus b = BusState.reset := State.bus_resetWith Config.params b

/-- Settles O43: after power-on each bus has the record `BusState.reset`. -/
theorem powerOnValues : Obligations.PowerOnValues := by
  refine ⟨rfl, fun b => ?bus⟩
  case bus =>
    rw [State.bus_reset]
    refine ⟨fun a _ => Memory.read_nil a, ?values⟩
    simp [BusState.reset]

/-- Settles O57: the record of a bus after power-on is legal under every configuration. -/
theorem powerOnHasTheInvariant : Obligations.PowerOnHasTheInvariant := by
  intro b
  rw [State.bus_reset]
  exact BusInv.reset State.reset.params b

end Sys2Proof.Machine
end
